-- ==== Sys2Proof/Word.lean ====
section
/-! DEFINITION. The word and the byte of the machine (spec 00_scope.md R110, R111, R107). -/

namespace Sys2Proof

/-- A 16-bit word: register contents, memory words, instructions and addresses (R110, R112). -/
abbrev Word := BitVec 16

/-- An 8-bit character of the console (R107). -/
abbrev Byte := BitVec 8

end Sys2Proof
end

