-- ==== Sys2Proof/Config.lean ====
section
/-! DEFINITION. What an implementation fixes: the parameters of 00_scope.md R110, the reset values the spec
gives (10_state.md R132), the trap vector numbers (30_encoding.md R159), and the values the spec leaves open,
each an opaque constant that nothing can evaluate. -/

namespace Sys2Proof

/-- The parameters a model takes as arguments (R110). They are fixed for one machine. They stand in `State`, so
that every statement about every state holds for every value of them. KBSR_ADDR and KBDR_ADDR must differ. -/
structure Params where
  /-- GPR_INIT (OPEN, D9): the reset value of R0 to R7. -/
  gprInit : Vector Word 8
  /-- POLL_TIMEOUT (OPEN, D13): no rule reads it. -/
  pollTimeout : Nat
  /-- IN_PROMPT (OPEN, D15): the bytes IN writes before it reads. -/
  inPrompt : List Byte
  /-- HALT_MESSAGE (D16): the bytes HALT writes. -/
  haltMessage : List Byte
  /-- KBSR_ADDR (D2). -/
  kbsrAddr : Word
  /-- KBDR_ADDR (D2). -/
  kbdrAddr : Word
  deriving DecidableEq, Repr

/-- R110: "KBSR_ADDR and KBDR_ADDR must differ." -/
def Params.wf (p : Params) : Bool := p.kbsrAddr != p.kbdrAddr

namespace Config

/-- The free draw of the n-th `ConsolePoll()` (R205, D13), used where the run's environment schedules no answer.
A free value: it has no body (log 9). -/
opaque pollDraw : Nat → Bool

/-- IN_PROMPT of `State.reset`: OPEN, so a constant without a body (R110, D15, log 6). -/
opaque openInPrompt : List Byte

/-- POLL_TIMEOUT of `State.reset`: OPEN, so a constant without a body (R110, D13, log 8). -/
opaque openPollTimeout : Nat

/-- PC_RESET (R110, R132). -/
def pcReset : Word := 0x3000#16

/-- MEM_RESET (R110, R132): what a memory address that no entry lists reads as. -/
def memReset : Word := 0x0000#16

/-- KBSR_ADDR by default (D2, log 3). -/
def kbsrDefault : Word := 0xFE00#16

/-- KBDR_ADDR by default (D2, log 3). -/
def kbdrDefault : Word := 0xFE02#16

/-- The reset value this model gives each general register in `State.reset`: DESIGN CHOICE, the spec leaves
GPR_INIT open (R132, D9, log 5). -/
def gprReset : Word := 0x0000#16

/-- The parameters of `State.reset`. -/
def defaultParams : Params where
  gprInit := Vector.replicate 8 gprReset
  pollTimeout := openPollTimeout
  inPrompt := openInPrompt
  haltMessage := []
  kbsrAddr := kbsrDefault
  kbdrAddr := kbdrDefault

/-- The trap vector numbers (R159, D3, log 4). -/
def vectGetc : Byte := 0x20#8
def vectOut : Byte := 0x21#8
def vectPuts : Byte := 0x22#8
def vectIn : Byte := 0x23#8
def vectPutsp : Byte := 0x24#8
def vectHalt : Byte := 0x25#8

end Config

end Sys2Proof
end

