-- ==== Sys2Proof/Syntax.lean ====
section
/-! DEFINITION. The instruction set: one constructor per row of spec/opcode_table.json (30_encoding.md R153,
R154). Offsets and immediates are kept at the width of their field; the machine extends them (R156). -/

namespace Sys2Proof

/-- A general register R0 to R7 (R116, R155): every 3-bit value names one. -/
abbrev Reg := Fin 8

/-- One instruction. Bits that a row ignores (R157) are not kept, except where the error record of the spec holds
the whole word (R192, R193, R190): there the constructor keeps them. -/
inductive Instr where
  /-- ADD, register mode (R165). -/
  | addReg (dr sr1 sr2 : Reg)
  /-- ADD, immediate mode (R166). -/
  | addImm (dr sr1 : Reg) (imm5 : BitVec 5)
  /-- AND, register mode (R167). -/
  | andReg (dr sr1 sr2 : Reg)
  /-- AND, immediate mode (R168). -/
  | andImm (dr sr1 : Reg) (imm5 : BitVec 5)
  /-- NOT (R169). -/
  | not (dr sr : Reg)
  /-- BR (R171); `nzp` is the mask, n the high bit. -/
  | br (nzp : BitVec 3) (off9 : BitVec 9)
  /-- JMP (R172). -/
  | jmp (base : Reg)
  /-- JSR (R173). -/
  | jsr (off11 : BitVec 11)
  /-- JSRR (R174). -/
  | jsrr (base : Reg)
  /-- LD (R176). -/
  | ld (dr : Reg) (off9 : BitVec 9)
  /-- ST (R180). -/
  | st (sr : Reg) (off9 : BitVec 9)
  /-- LDR (R178). -/
  | ldr (dr base : Reg) (off6 : BitVec 6)
  /-- STR (R182). -/
  | str (sr base : Reg) (off6 : BitVec 6)
  /-- Reserved opcode 0x8 (R192), with the word's low 12 bits. -/
  | res8 (low12 : BitVec 12)
  /-- LDI (R177). -/
  | ldi (dr : Reg) (off9 : BitVec 9)
  /-- STI (R181). -/
  | sti (sr : Reg) (off9 : BitVec 9)
  /-- Reserved opcode 0xD (R193), with the word's low 12 bits. -/
  | res13 (low12 : BitVec 12)
  /-- LEA (R179). -/
  | lea (dr : Reg) (off9 : BitVec 9)
  /-- TRAP (R183), with the ignored bits 11:8 of the word. -/
  | trap (low4 : BitVec 4) (vect8 : BitVec 8)
  /-- NOP (R160): BR whose mask is 000. -/
  | nop (off9 : BitVec 9)
  /-- RET (R172): JMP through R7. -/
  | ret
  /-- TRAP GETC (R184). -/
  | getc
  /-- TRAP OUT (R185). -/
  | out
  /-- TRAP PUTS (R186). -/
  | puts
  /-- TRAP IN (R187). -/
  | inChar
  /-- TRAP PUTSP (R188). -/
  | putsp
  /-- TRAP HALT (R189). -/
  | halt
  deriving DecidableEq, Repr

end Sys2Proof
end

