-- ==== Sys2Proof/Machine/State.lean ====
section
/-! DEFINITION. The machine's state as plain data (10_state.md), the reset state (R132), and the reasons a run can
stop (60_exceptions.md R194). -/

namespace Sys2Proof.Machine

/-- The condition flag: exactly one of three values at all times (R121). -/
inductive Cond where
  | negative
  | zero
  | positive
  deriving DecidableEq, Repr

/-- The execution engine's state (R128). -/
inductive RunState where
  | running
  | halted
  deriving DecidableEq, Repr

/-- A trap service that has begun and has not completed (R205, R209, D17). While one is held no fetch happens. -/
inductive Service where
  /-- GETC waits in `ConsoleReadChar` (R184). -/
  | getc
  /-- IN has written its prompt and waits in `ConsoleReadChar` (R187). -/
  | inChar
  /-- PUTS is about to read the word at `a` (R186, D17). -/
  | puts (a : Word)
  /-- PUTSP is about to read the word at `a` (R188, D17). -/
  | putsp (a : Word)
  deriving DecidableEq, Repr

/-- The console's input and output mode (R107, R205). -/
inductive ConsoleMode where
  /-- The prior mode: before `save_mode()`, or after `restore_mode()`. -/
  | prior
  /-- Non-buffered, non-echoing: `save_mode()` issued and `restore_mode()` not yet. -/
  | raw
  deriving DecidableEq, Repr

/-- The external console as the core meets it (R107, R131, R205). -/
structure Console where
  /-- The bytes of `In` not yet consumed, the next one first. -/
  input : List Byte
  /-- What the coming `ConsolePoll()` calls draw, the next one first, as far as the environment schedules it. -/
  draws : List Bool
  /-- How many polls were made: the counter the free draw is applied to (log 9). -/
  polls : Nat
  /-- `Out`, the first byte written first. -/
  out : List Byte
  /-- Whether the console is in the run's mode. -/
  mode : ConsoleMode
  deriving DecidableEq, Repr

/-- The host's stop request of the run (R197, log 15): it lands after `after` more steps have completed, in the step
that follows, once that step has written `bytes` bytes. -/
structure StopRequest where
  after : Nat
  bytes : Nat
  deriving DecidableEq, Repr

/-- Memory: the words that differ from `Config.memReset`, by address, in rising order (R129, log 1). -/
abbrev Memory := List (Nat × Word)

/-- Everything the spec gives one machine instance (R105, R125, R129, R131). -/
structure State where
  /-- R0 to R7 (R116). -/
  regs : Vector Word 8
  /-- The program counter, a word address (R119). -/
  pc : Word
  /-- The condition flag (R121). -/
  cond : Cond
  /-- RUNNING or HALTED (R128). -/
  run : RunState
  /-- MEM, the device words KBSR and KBDR among its words (R126, R127, R129). -/
  mem : Memory
  /-- The trap service in progress, if any (R205, log 11, log 12). -/
  service : Option Service
  /-- The console (R205). -/
  console : Console
  /-- The host's stop, if one is to come (R108, R197, log 15). -/
  stop : Option StopRequest
  /-- The machine's parameters (R110); no step changes them. -/
  params : Params
  deriving DecidableEq, Repr

/-- The state at the first fetch of a machine with parameters `p`, no image loaded and no input (R132, R210). -/
def State.start (p : Params) : State where
  regs := p.gprInit
  pc := Config.pcReset
  cond := .zero
  run := .running
  mem := []
  service := none
  console := ⟨[], [], 0, [], .raw⟩
  stop := none
  params := p

/-- The machine right after reset (R132), with the default parameters and no image. The general registers hold 0
and the input is empty: DESIGN CHOICE, log 5 and log 10. -/
def State.reset : State := State.start Config.defaultParams

/-- Why no run began (R196, D18). -/
inductive StartupCause where
  /-- A missing argument or an unreadable file. -/
  | unreadable
  /-- An image of fewer than 2 bytes. -/
  | noOrigin
  deriving DecidableEq, Repr

/-- The closed set of errors (R194), with what each records and what of the machine is observable after it (R213). -/
inductive Fault where
  /-- Raised by `boot` before any instruction (R196); `step` never answers it. Safe: no run took place. -/
  | startupError (cause : StartupCause)
  /-- Raised by the reserved opcodes 0x8 and 0xD (R192, R193, R195): the word `ir` at address `a`, and the state
  the caller sees, which is the one before the step but for the poll of a fetch from KBSR_ADDR. Safe: the spec
  ends the run here. -/
  | illegalInstruction (a ir : Word) (final : State)
  /-- Raised by TRAP with a vector outside 0x20 to 0x25 (R190), the TRAP's address and word. The final state is
  not observable (R213); what the console shows is. Safe: the spec ends the run here. -/
  | unrecognizedTrap (a ir : Word) (out : List Byte) (mode : ConsoleMode)
  /-- Raised by `step` when the host's stop request lands (R197): outcome Stopped. Only the console's output up to
  the stop and its mode are observable (R213). Safe: the spec ends the run here. -/
  | interrupt (out : List Byte) (mode : ConsoleMode)
  deriving DecidableEq, Repr

/-- Why the model has no meaning for an instruction. -/
inductive Refusal where
  /-- Raised by an arm of `exec` for an instruction without a meaning yet; no arm does. Safe. -/
  | notModelled (mnemonic : String)
  deriving DecidableEq, Repr

/-- What one step or one meaning answers. -/
abbrev Result := Host.Outcome State Fault Refusal

/-! ### One setter per field, so that every later update goes through a name -/

def State.setRegs (s : State) (v : Vector Word 8) : State := { s with regs := v }
def State.setPc (s : State) (v : Word) : State := { s with pc := v }
def State.setCond (s : State) (v : Cond) : State := { s with cond := v }
def State.setRun (s : State) (v : RunState) : State := { s with run := v }
def State.setMem (s : State) (v : Memory) : State := { s with mem := v }
def State.setService (s : State) (v : Option Service) : State := { s with service := v }
def State.setConsole (s : State) (v : Console) : State := { s with console := v }
def State.setStop (s : State) (v : Option StopRequest) : State := { s with stop := v }

end Sys2Proof.Machine
end

