-- ==== Sys2Proof/Machine/Flags.lean ====
section
/-! DEFINITION. The condition flag: its encoding (R121), its update (R122) and the test BR makes of it (R171). -/

namespace Sys2Proof.Machine

/-- The 3-bit one-hot form of the flag: N = 0b100, Z = 0b010, P = 0b001 (R121). -/
def condBits : Cond → BitVec 3
  | .negative => 0b100#3
  | .zero => 0b010#3
  | .positive => 0b001#3

/-- The flag of a written value (R122). -/
def condOf (v : Word) : Cond :=
  if v = 0x0000#16 then .zero else if v.getLsbD 15 then .negative else .positive

/-- `setcc(v)` (R122). -/
def setcc (s : State) (v : Word) : State := s.setCond (condOf v)

/-- Whether a BR with this mask is taken: `(ir[11:9] & cond) != 0` (R171). -/
def branchTaken (nzp : BitVec 3) (c : Cond) : Bool := nzp &&& condBits c != 0#3

end Sys2Proof.Machine
end

