-- ==== Sys2Proof/Machine/Ops.lean ====
section
/-! DEFINITION. The named operations over registers, memory, the keyboard device and the console (00_scope.md R115,
20_memory.md, 60_exceptions.md R205), the entry of a TRAP, the errors, and the fetch. -/

namespace Sys2Proof.Machine

/-! ### Bytes of a word (R114) -/

/-- `zext_8(b)`. -/
def zext8 (b : Byte) : Word := b.setWidth 16
/-- `lowbyte(w) = w[7:0]`. -/
def lowByte (w : Word) : Byte := w.extractLsb' 0 8
/-- `highbyte(w) = w[15:8]`. -/
def highByte (w : Word) : Byte := w.extractLsb' 8 8

/-! ### General registers (R116) -/

/-- `x[i]`. -/
def readReg (s : State) (r : Reg) : Word := s.regs[r.val]
/-- `x[i] <- v`. No register is hardwired. -/
def writeReg (s : State) (r : Reg) (v : Word) : State := s.setRegs (s.regs.set r.val v)
/-- A result written to its destination, and the flag set from it (R122, R123). -/
def writeResult (s : State) (r : Reg) (v : Word) : State := setcc (writeReg s r v) v

/-! ### The memory array (R129) -/

/-- The word stored at an address; an address no entry lists holds the reset contents (R132). -/
def Memory.read : Memory → Nat → Word
  | [], _ => Config.memReset
  | (k, v) :: m, a => if k = a then v else Memory.read m a

/-- The entries but those at `a`. -/
def Memory.erase : Memory → Nat → Memory
  | [], _ => []
  | (k, v) :: m, a => if k = a then Memory.erase m a else (k, v) :: Memory.erase m a

/-- The entry `(a, v)` put before the first entry of a higher address. -/
def Memory.insert : Memory → Nat → Word → Memory
  | [], a, v => [(a, v)]
  | (k, w) :: m, a, v => if a < k then (a, v) :: (k, w) :: m else (k, w) :: Memory.insert m a v

/-- `MEM[a] <- v`, keeping the canonical form: a word equal to the reset contents is not listed. -/
def Memory.write (m : Memory) (a : Nat) (v : Word) : Memory :=
  if v = Config.memReset then m.erase a else Memory.insert (m.erase a) a v

/-- The entries are at strictly rising addresses from `lo` on, inside the address space, and none lists the reset
contents. -/
def Memory.wfFrom (lo : Nat) : Memory → Bool
  | [] => true
  | (k, v) :: m => decide (lo ≤ k) && decide (k < 65536) && (v != Config.memReset) && Memory.wfFrom (k + 1) m

/-- The canonical form of memory: equal memories are equal lists. -/
def Memory.wf (m : Memory) : Bool := Memory.wfFrom 0 m

/-- `RawRead(a)`: the stored word, with no side effect (R137). -/
def rawRead (s : State) (a : Word) : Word := s.mem.read a.toNat

/-- `MemWrite(a, 1, v)`: stores at every address and does nothing else (R136). -/
def memWrite (s : State) (a v : Word) : State := s.setMem (s.mem.write a.toNat v)

/-! ### The console (R107, R205) -/

/-- The draw of the coming poll: what the environment schedules, else a free value (R205, D13, log 9). -/
def drawOf (c : Console) : Bool :=
  match c.draws with
  | b :: _ => b
  | [] => Config.pollDraw c.polls

/-- The answer of the coming `ConsolePoll()`: the draw, under the law that it is true only if `In` has a byte
left (R205). -/
def pollAnswer (c : Console) : Bool := drawOf c && !c.input.isEmpty

/-- The console after one poll: its draw is used up. -/
def afterPoll (c : Console) : Console := { c with draws := c.draws.tail, polls := c.polls + 1 }

/-- The console after `ConsoleReadChar()` took the next byte. -/
def afterRead (c : Console) : Console := { c with input := c.input.tail }

/-- `ConsoleWriteChar(b)` for each byte in order: never blocks, never fails (R205). -/
def writeChars (s : State) (bs : List Byte) : State := s.setConsole { s.console with out := s.console.out ++ bs }

/-- `restore_mode()` (R107): no architectural state changes. -/
def restoreMode (s : State) : State := s.setConsole { s.console with mode := .prior }

/-! ### The keyboard device (R126, R127, R134, R135) -/

/-- The poll of a KBSR read that finds `c`: KBSR <- 0x8000, KBDR <- zext_8(c), and the byte is consumed. -/
def pollFound (s : State) (c : Byte) : State :=
  memWrite (memWrite (s.setConsole (afterRead (afterPoll s.console))) s.params.kbsrAddr 0x8000#16) s.params.kbdrAddr (zext8 c)

/-- The poll of a KBSR read that finds nothing: KBSR <- 0x0000, and KBDR is unchanged. -/
def pollEmpty (s : State) : State :=
  memWrite (s.setConsole (afterPoll s.console)) s.params.kbsrAddr 0x0000#16

/-- `KbsrPoll()` (R135). -/
def kbsrPoll (s : State) : State :=
  match s.console.input with
  | c :: _ => if pollAnswer s.console then pollFound s c else pollEmpty s
  | [] => pollEmpty s

/-- The state in which `MemRead(a, 1)` reads: polled first if `a` is KBSR_ADDR (R134). -/
def memReadState (s : State) (a : Word) : State := if a = s.params.kbsrAddr then kbsrPoll s else s

/-- `MemRead(a, 1)` (R134): the word, and the state after the access. -/
def memRead (s : State) (a : Word) : Word × State := (rawRead (memReadState s a) a, memReadState s a)

/-! ### TRAP entry, errors and the end of a run -/

/-- The entry of a TRAP service call, the only one the machine has: `x[7] <- pc`, and no mode, mask or stack
changes (R183, R200). JSR and JSRR make the same link (R173, R174). A service returns by itself (R201). -/
def linkR7 (s : State) : State := writeReg s 7 s.pc

/-- The address of the instruction being executed: `pc` holds that address plus 1 (R119). -/
def instrAddr (s : State) : Word := s.pc - 1#16

/-- `raise IllegalInstruction(a, ir)` (R195): the caller sees the state before the step, pc at the word itself,
and the console restored (R213). -/
def raiseIllegal (s : State) (ir : Word) : Result :=
  .fault (.illegalInstruction (instrAddr s) ir (restoreMode (s.setPc (instrAddr s))))

/-- The fault of R190; the state it is raised in is not observable, the console's output and mode are (R213). -/
def raiseUnrecognizedTrap (s : State) (ir : Word) : Result :=
  .fault (.unrecognizedTrap (instrAddr s) ir (restoreMode s).console.out (restoreMode s).console.mode)

/-- `halt`: run state <- HALTED, and the console is restored at this end of the run (R189, R213). -/
def haltRun (s : State) : State := restoreMode (s.setRun .halted)

/-! ### The fetch (R119, R162) -/

/-- The fetched word, and the state after the fetch: `ir <- MemRead(pc, 1)`, `pc <- pc + 1`. -/
def fetch (s : State) : Word × State :=
  ((memRead s s.pc).1, (memRead s s.pc).2.setPc ((memRead s s.pc).2.pc + 1#16))

end Sys2Proof.Machine
end

