-- ==== Sys2Proof/Machine/Operands.lean ====
section
/-! DEFINITION. The operand forms: immediates (R113, R156) and the three addressing modes (R175). -/

namespace Sys2Proof.Machine

/-- `sext_N(v)` (R113): the field's top bit copied into all higher bits of a 16-bit word. -/
def sext {n : Nat} (v : BitVec n) : Word := v.signExtend 16

/-- The PC-relative address or target: the incremented pc plus the offset, modulo 65536 (R119, R156, R175). -/
def pcRel {n : Nat} (s : State) (off : BitVec n) : Word := s.pc + sext off

/-- The base plus offset address, modulo 65536 (R175). -/
def baseOff (s : State) (base : Reg) (off6 : BitVec 6) : Word := readReg s base + sext off6

/-- The indirect address (R175): the word that a `MemRead` of the PC-relative address gives, and the state after
that access. -/
def indirect (s : State) (off9 : BitVec 9) : Word × State := memRead s (pcRel s off9)

end Sys2Proof.Machine
end

