-- ==== Sys2Proof/Machine/Control.lean ====
section
/-! DEFINITION. Control transfer (41_control.md). `pc` is the incremented pc in all of them. -/

namespace Sys2Proof.Machine

/-- BR (R171). -/
def execBr (nzp : BitVec 3) (off9 : BitVec 9) (s : State) : Result :=
  .next (if branchTaken nzp s.cond then s.setPc (pcRel s off9) else s)

/-- NOP (R160): BR with the mask 000 never branches and does nothing else. -/
def execNop (_off9 : BitVec 9) (s : State) : Result := .next s

/-- JMP (R172). -/
def execJmp (base : Reg) (s : State) : Result := .next (s.setPc (readReg s base))

/-- RET (R172): JMP through R7. -/
def execRet (s : State) : Result := .next (s.setPc (readReg s 7))

/-- JSR (R173). -/
def execJsr (off11 : BitVec 11) (s : State) : Result := .next ((linkR7 s).setPc (pcRel s off11))

/-- JSRR (R174): BaseR is read after R7 is written, so `JSRR R7` leaves pc at the incremented value (D12, log 16). -/
def execJsrr (base : Reg) (s : State) : Result := .next ((linkR7 s).setPc (readReg (linkR7 s) base))

end Sys2Proof.Machine
end

