-- ==== Sys2Proof/Machine/LoadStore.lean ====
section
/-! DEFINITION. Loads, LEA and stores (42_load_store.md). Every read of a load and the pointer read of STI are
`MemRead`s (R138, D6). -/

namespace Sys2Proof.Machine

/-- A load's last part: the word at `ea` is read, written to the destination, and sets the flag. -/
def loadInto (s : State) (dr : Reg) (ea : Word) : State :=
  writeResult (memRead s ea).2 dr (memRead s ea).1

/-- LD (R176). -/
def execLd (dr : Reg) (off9 : BitVec 9) (s : State) : Result := .next (loadInto s dr (pcRel s off9))

/-- LDI (R177): the pointer is read first, then the target. -/
def execLdi (dr : Reg) (off9 : BitVec 9) (s : State) : Result :=
  .next (loadInto (indirect s off9).2 dr (indirect s off9).1)

/-- LDR (R178). -/
def execLdr (dr base : Reg) (off6 : BitVec 6) (s : State) : Result := .next (loadInto s dr (baseOff s base off6))

/-- LEA (R179): the address is not dereferenced; the flag is set from it. -/
def execLea (dr : Reg) (off9 : BitVec 9) (s : State) : Result := .next (writeResult s dr (pcRel s off9))

/-- ST (R180). -/
def execSt (sr : Reg) (off9 : BitVec 9) (s : State) : Result :=
  .next (memWrite s (pcRel s off9) (readReg s sr))

/-- STI (R181): the pointer read may poll, the store does not. -/
def execSti (sr : Reg) (off9 : BitVec 9) (s : State) : Result :=
  .next (memWrite (indirect s off9).2 (indirect s off9).1 (readReg (indirect s off9).2 sr))

/-- STR (R182). -/
def execStr (sr base : Reg) (off6 : BitVec 6) (s : State) : Result :=
  .next (memWrite s (baseOff s base off6) (readReg s sr))

end Sys2Proof.Machine
end

