-- ==== Sys2Proof/Machine/Operate.lean ====
section
/-! DEFINITION. The operate instructions (40_operate.md). Both sources are read before the destination is written. -/

namespace Sys2Proof.Machine

/-- ADD, register mode (R165). -/
def execAddReg (dr sr1 sr2 : Reg) (s : State) : Result :=
  .next (writeResult s dr (readReg s sr1 + readReg s sr2))

/-- ADD, immediate mode (R166). -/
def execAddImm (dr sr1 : Reg) (imm5 : BitVec 5) (s : State) : Result :=
  .next (writeResult s dr (readReg s sr1 + sext imm5))

/-- AND, register mode (R167). -/
def execAndReg (dr sr1 sr2 : Reg) (s : State) : Result :=
  .next (writeResult s dr (readReg s sr1 &&& readReg s sr2))

/-- AND, immediate mode (R168). -/
def execAndImm (dr sr1 : Reg) (imm5 : BitVec 5) (s : State) : Result :=
  .next (writeResult s dr (readReg s sr1 &&& sext imm5))

/-- NOT (R169). -/
def execNot (dr sr : Reg) (s : State) : Result :=
  .next (writeResult s dr (~~~ readReg s sr))

end Sys2Proof.Machine
end

