-- ==== Sys2Proof/WellFormed.lean ====
section
/-! DEFINITION. Which terms of `Instr` a decoder can give. The most specific row of the opcode table names a word
(30_encoding.md R154), so a base row never stands for a word that one of its refining rows names. Every other
field is legal at every value (R155, R158). -/

namespace Sys2Proof

/-- The trap vector values that select a service routine (R159). -/
def serviceVectors : List Byte :=
  [Config.vectGetc, Config.vectOut, Config.vectPuts, Config.vectIn, Config.vectPutsp, Config.vectHalt]

/-- The check, one arm per constructor. -/
def Instr.wellFormed : Instr → Bool
  | .addReg _ _ _ => true
  | .addImm _ _ _ => true
  | .andReg _ _ _ => true
  | .andImm _ _ _ => true
  | .not _ _ => true
  | .br nzp _ => nzp != 0#3
  | .jmp base => base != 7
  | .jsr _ => true
  | .jsrr _ => true
  | .ld _ _ => true
  | .st _ _ => true
  | .ldr _ _ _ => true
  | .str _ _ _ => true
  | .res8 _ => true
  | .ldi _ _ => true
  | .sti _ _ => true
  | .res13 _ => true
  | .lea _ _ => true
  | .trap _ vect8 => !serviceVectors.contains vect8
  | .nop _ => true
  | .ret => true
  | .getc => true
  | .out => true
  | .puts => true
  | .inChar => true
  | .putsp => true
  | .halt => true

end Sys2Proof
end

