-- ==== Sys2Proof/Decode.lean ====
section
/-! DEFINITION. The decoder (30_encoding.md R151 to R160), total on every 16-bit word, the opcode table it is
written from, and the encoder. -/

namespace Sys2Proof

/-! ### The fields of a word (R152, R154) -/

/-- The opcode, ir[15:12] (R152). -/
def opcodeOf (ir : Word) : BitVec 4 := ir.extractLsb' 12 4
/-- ir[11:9]: DR, and SR of the stores. -/
def reg11 (ir : Word) : Reg := (ir.extractLsb' 9 3).toFin
/-- ir[8:6]: SR1, SR of NOT, BaseR. -/
def reg8 (ir : Word) : Reg := (ir.extractLsb' 6 3).toFin
/-- ir[2:0]: SR2. -/
def reg2 (ir : Word) : Reg := (ir.extractLsb' 0 3).toFin
/-- ir[11:9] as the mask n, z, p of BR. -/
def nzpOf (ir : Word) : BitVec 3 := ir.extractLsb' 9 3
/-- ir[4:0]: imm5. -/
def imm5Of (ir : Word) : BitVec 5 := ir.extractLsb' 0 5
/-- ir[5:0]: offset6. -/
def off6Of (ir : Word) : BitVec 6 := ir.extractLsb' 0 6
/-- ir[8:0]: PCoffset9. -/
def off9Of (ir : Word) : BitVec 9 := ir.extractLsb' 0 9
/-- ir[10:0]: PCoffset11. -/
def off11Of (ir : Word) : BitVec 11 := ir.extractLsb' 0 11
/-- ir[7:0]: trapvect8. -/
def vect8Of (ir : Word) : BitVec 8 := ir.extractLsb' 0 8
/-- ir[11:8]: the bits TRAP ignores. -/
def low4Of (ir : Word) : BitVec 4 := ir.extractLsb' 8 4
/-- ir[11:0]: the bits the reserved opcodes ignore. -/
def low12Of (ir : Word) : BitVec 12 := ir.extractLsb' 0 12
/-- ir[5]: the mode bit of ADD and AND. -/
def modeImm (ir : Word) : Bool := ir.getLsbD 5
/-- ir[11]: the mode bit of JSR. -/
def modeJsr (ir : Word) : Bool := ir.getLsbD 11

/-! ### The decoder -/

/-- Opcode 0x0: BR, or NOP where the mask is 000 (R160, R171). -/
def decodeBr (ir : Word) : Instr :=
  if nzpOf ir = 0#3 then .nop (off9Of ir) else .br (nzpOf ir) (off9Of ir)

/-- Opcode 0x1: ADD, the mode bit ir[5] choosing the form (R165, R166). -/
def decodeAdd (ir : Word) : Instr :=
  if modeImm ir then .addImm (reg11 ir) (reg8 ir) (imm5Of ir) else .addReg (reg11 ir) (reg8 ir) (reg2 ir)

/-- Opcode 0x5: AND, the mode bit ir[5] choosing the form (R167, R168). -/
def decodeAnd (ir : Word) : Instr :=
  if modeImm ir then .andImm (reg11 ir) (reg8 ir) (imm5Of ir) else .andReg (reg11 ir) (reg8 ir) (reg2 ir)

/-- Opcode 0x4: JSR or JSRR, the mode bit ir[11] choosing (R173, R174). -/
def decodeJsr (ir : Word) : Instr :=
  if modeJsr ir then .jsr (off11Of ir) else .jsrr (reg8 ir)

/-- Opcode 0xC: JMP, or RET where BaseR is R7 (R172). -/
def decodeJmp (ir : Word) : Instr :=
  if reg8 ir = 7 then .ret else .jmp (reg8 ir)

/-- Opcode 0xF: TRAP, or the service its vector selects (R159, R183). -/
def decodeTrap (ir : Word) : Instr :=
  if vect8Of ir = Config.vectGetc then .getc
  else if vect8Of ir = Config.vectOut then .out
  else if vect8Of ir = Config.vectPuts then .puts
  else if vect8Of ir = Config.vectIn then .inChar
  else if vect8Of ir = Config.vectPutsp then .putsp
  else if vect8Of ir = Config.vectHalt then .halt
  else .trap (low4Of ir) (vect8Of ir)

/-- The decoder: the opcode map of R153. Each of the 16 opcodes has one arm (the last stands for 15), so every
word decodes; the two reserved opcodes decode to rows of their own, whose meaning is the error of R192 and R193. -/
def decode (ir : Word) : Instr :=
  match (opcodeOf ir).toNat with
  | 0 => decodeBr ir
  | 1 => decodeAdd ir
  | 2 => .ld (reg11 ir) (off9Of ir)
  | 3 => .st (reg11 ir) (off9Of ir)
  | 4 => decodeJsr ir
  | 5 => decodeAnd ir
  | 6 => .ldr (reg11 ir) (reg8 ir) (off6Of ir)
  | 7 => .str (reg11 ir) (reg8 ir) (off6Of ir)
  | 8 => .res8 (low12Of ir)
  | 9 => .not (reg11 ir) (reg8 ir)
  | 10 => .ldi (reg11 ir) (off9Of ir)
  | 11 => .sti (reg11 ir) (off9Of ir)
  | 12 => decodeJmp ir
  | 13 => .res13 (low12Of ir)
  | 14 => .lea (reg11 ir) (off9Of ir)
  | _ => decodeTrap ir

/-- The instruction the decoder reads from a word numbered as the opcode table numbers it. Every instruction is
one 16-bit word (R151), so `nbits` is at most 16 and the bits above it are 0. -/
def decodeTableWord (nbits w : Nat) : Option Instr :=
  if nbits ≤ 16 ∧ w < 2 ^ nbits then some (decode (BitVec.ofNat 16 w)) else none

/-! ### The encoder, from the same patterns; a bit marked x is written 0 -/

/-- The 3 bits of a register field. -/
def regBits (r : Reg) : BitVec 3 := BitVec.ofFin r

/-- A field at its place in a word: its lowest bit at bit `at_`. -/
def place {n : Nat} (v : BitVec n) (at_ : Nat) : Word := v.setWidth 16 <<< at_

/-- op(4) a(3) b(3) c(6). -/
def pack336 (op : BitVec 4) (a b : BitVec 3) (c : BitVec 6) : Word := place op 12 ||| place a 9 ||| place b 6 ||| place c 0
/-- op(4) a(3) c(9). -/
def pack39 (op : BitVec 4) (a : BitVec 3) (c : BitVec 9) : Word := place op 12 ||| place a 9 ||| place c 0
/-- op(4) m(1) c(11). -/
def pack111 (op : BitVec 4) (m : BitVec 1) (c : BitVec 11) : Word := place op 12 ||| place m 11 ||| place c 0
/-- op(4) a(4) c(8). -/
def pack48 (op a : BitVec 4) (c : BitVec 8) : Word := place op 12 ||| place a 8 ||| place c 0
/-- op(4) c(12). -/
def pack12 (op : BitVec 4) (c : BitVec 12) : Word := place op 12 ||| place c 0
/-- The low 6 bits of the register mode of ADD and AND: 0 xx SR2. -/
def lowReg (r : Reg) : BitVec 6 := (regBits r).setWidth 6
/-- The low 6 bits of the immediate mode of ADD and AND: 1 imm5. -/
def lowImm (imm5 : BitVec 5) : BitVec 6 := imm5.setWidth 6 ||| 0b100000#6

/-- The word of an instruction (R154). -/
def encode : Instr → Word
  | .addReg dr sr1 sr2 => pack336 0x1#4 (regBits dr) (regBits sr1) (lowReg sr2)
  | .addImm dr sr1 imm5 => pack336 0x1#4 (regBits dr) (regBits sr1) (lowImm imm5)
  | .andReg dr sr1 sr2 => pack336 0x5#4 (regBits dr) (regBits sr1) (lowReg sr2)
  | .andImm dr sr1 imm5 => pack336 0x5#4 (regBits dr) (regBits sr1) (lowImm imm5)
  | .not dr sr => pack336 0x9#4 (regBits dr) (regBits sr) 0#6
  | .br nzp off9 => pack39 0x0#4 nzp off9
  | .jmp base => pack336 0xC#4 0#3 (regBits base) 0#6
  | .jsr off11 => pack111 0x4#4 1#1 off11
  | .jsrr base => pack336 0x4#4 0#3 (regBits base) 0#6
  | .ld dr off9 => pack39 0x2#4 (regBits dr) off9
  | .st sr off9 => pack39 0x3#4 (regBits sr) off9
  | .ldr dr base off6 => pack336 0x6#4 (regBits dr) (regBits base) off6
  | .str sr base off6 => pack336 0x7#4 (regBits sr) (regBits base) off6
  | .res8 low12 => pack12 0x8#4 low12
  | .ldi dr off9 => pack39 0xA#4 (regBits dr) off9
  | .sti sr off9 => pack39 0xB#4 (regBits sr) off9
  | .res13 low12 => pack12 0xD#4 low12
  | .lea dr off9 => pack39 0xE#4 (regBits dr) off9
  | .trap low4 vect8 => pack48 0xF#4 low4 vect8
  | .nop off9 => pack39 0x0#4 0#3 off9
  | .ret => pack336 0xC#4 0#3 7#3 0#6
  | .getc => pack48 0xF#4 0#4 Config.vectGetc
  | .out => pack48 0xF#4 0#4 Config.vectOut
  | .puts => pack48 0xF#4 0#4 Config.vectPuts
  | .inChar => pack48 0xF#4 0#4 Config.vectIn
  | .putsp => pack48 0xF#4 0#4 Config.vectPutsp
  | .halt => pack48 0xF#4 0#4 Config.vectHalt

/-! ### The opcode table, one row each (R154) -/

/-- A row: `mask` marks the fixed bits and `pattern` gives them, `reads` marks every bit that is fixed or in a
field (the bits not marked x), `refines` says that the row names special cases of another row. -/
structure Row where
  mask : Word
  pattern : Word
  reads : Word
  refines : Bool
  deriving DecidableEq, Repr

/-- The word has the row's fixed bits. -/
def Row.admits (r : Row) (w : Word) : Bool := w &&& r.mask == r.pattern

/-- The row an instruction stands for, mask and pattern as the table gives them. -/
def Instr.row : Instr → Row
  | .addReg _ _ _ => ⟨0xF020#16, 0x1000#16, 0xFFE7#16, false⟩
  | .addImm _ _ _ => ⟨0xF020#16, 0x1020#16, 0xFFFF#16, false⟩
  | .andReg _ _ _ => ⟨0xF020#16, 0x5000#16, 0xFFE7#16, false⟩
  | .andImm _ _ _ => ⟨0xF020#16, 0x5020#16, 0xFFFF#16, false⟩
  | .not _ _ => ⟨0xF000#16, 0x9000#16, 0xFFC0#16, false⟩
  | .br _ _ => ⟨0xF000#16, 0x0000#16, 0xFFFF#16, false⟩
  | .jmp _ => ⟨0xF000#16, 0xC000#16, 0xF1C0#16, false⟩
  | .jsr _ => ⟨0xF800#16, 0x4800#16, 0xFFFF#16, false⟩
  | .jsrr _ => ⟨0xF800#16, 0x4000#16, 0xF9C0#16, false⟩
  | .ld _ _ => ⟨0xF000#16, 0x2000#16, 0xFFFF#16, false⟩
  | .st _ _ => ⟨0xF000#16, 0x3000#16, 0xFFFF#16, false⟩
  | .ldr _ _ _ => ⟨0xF000#16, 0x6000#16, 0xFFFF#16, false⟩
  | .str _ _ _ => ⟨0xF000#16, 0x7000#16, 0xFFFF#16, false⟩
  | .res8 _ => ⟨0xF000#16, 0x8000#16, 0xF000#16, false⟩
  | .ldi _ _ => ⟨0xF000#16, 0xA000#16, 0xFFFF#16, false⟩
  | .sti _ _ => ⟨0xF000#16, 0xB000#16, 0xFFFF#16, false⟩
  | .res13 _ => ⟨0xF000#16, 0xD000#16, 0xF000#16, false⟩
  | .lea _ _ => ⟨0xF000#16, 0xE000#16, 0xFFFF#16, false⟩
  | .trap _ _ => ⟨0xF000#16, 0xF000#16, 0xF0FF#16, false⟩
  | .nop _ => ⟨0xFE00#16, 0x0000#16, 0xFFFF#16, true⟩
  | .ret => ⟨0xF1C0#16, 0xC1C0#16, 0xF1C0#16, true⟩
  | .getc => ⟨0xF0FF#16, 0xF020#16, 0xF0FF#16, true⟩
  | .out => ⟨0xF0FF#16, 0xF021#16, 0xF0FF#16, true⟩
  | .puts => ⟨0xF0FF#16, 0xF022#16, 0xF0FF#16, true⟩
  | .inChar => ⟨0xF0FF#16, 0xF023#16, 0xF0FF#16, true⟩
  | .putsp => ⟨0xF0FF#16, 0xF024#16, 0xF0FF#16, true⟩
  | .halt => ⟨0xF0FF#16, 0xF025#16, 0xF0FF#16, true⟩

/-- The whole table, a row from one instruction of each constructor, in the order of spec/opcode_table.json. -/
def opcodeTable : List Row :=
  [Instr.addReg 0 0 0, .addImm 0 0 0, .andReg 0 0 0, .andImm 0 0 0, .not 0 0, .br 0 0, .jmp 0, .jsr 0, .jsrr 0,
    .ld 0 0, .st 0 0, .ldr 0 0 0, .str 0 0 0, .res8 0, .ldi 0 0, .sti 0 0, .res13 0, .lea 0 0, .trap 0 0].map Instr.row
  ++ [Instr.nop 0, .ret, .getc, .out, .puts, .inChar, .putsp, .halt].map Instr.row

/-- An instruction without the ignored bits that only the error record of R190, R192 and R193 shows. -/
def Instr.withoutIgnored : Instr → Instr
  | .res8 _ => .res8 0
  | .res13 _ => .res13 0
  | .trap _ vect8 => .trap 0 vect8
  | .addReg a b c => .addReg a b c
  | .addImm a b c => .addImm a b c
  | .andReg a b c => .andReg a b c
  | .andImm a b c => .andImm a b c
  | .not a b => .not a b
  | .br a b => .br a b
  | .jmp a => .jmp a
  | .jsr a => .jsr a
  | .jsrr a => .jsrr a
  | .ld a b => .ld a b
  | .st a b => .st a b
  | .ldr a b c => .ldr a b c
  | .str a b c => .str a b c
  | .ldi a b => .ldi a b
  | .sti a b => .sti a b
  | .lea a b => .lea a b
  | .nop a => .nop a
  | .ret => .ret
  | .getc => .getc
  | .out => .out
  | .puts => .puts
  | .inChar => .inChar
  | .putsp => .putsp
  | .halt => .halt

end Sys2Proof
end

