-- ==== Sys2Proof/Machine/Reserved.lean ====
section
/-! DEFINITION. The reserved opcodes (44_reserved.md). -/

namespace Sys2Proof.Machine

/-- Opcode 0x8 (R192). -/
def execRes8 (low12 : BitVec 12) (s : State) : Result := raiseIllegal s (encode (.res8 low12))

/-- Opcode 0xD (R193). -/
def execRes13 (low12 : BitVec 12) (s : State) : Result := raiseIllegal s (encode (.res13 low12))

end Sys2Proof.Machine
end

