-- ==== Sys2Proof/Machine/Trap.lean ====
section
/-! DEFINITION. TRAP and its six service routines (43_trap.md). They are part of the core (D22). A routine that
cannot complete yet answers a state in which it is in progress (`State.service`), and `resume` goes on with it. -/

namespace Sys2Proof.Machine

/-! ### The routines, in the state after the TRAP's entry -/

/-- GETC from `ConsoleReadChar()` on (R184): with no byte left in `In` it waits (R205, D14, log 11). -/
def serviceGetc (s : State) : State :=
  match s.console.input with
  | [] => s.setService (some .getc)
  | c :: _ => writeResult (s.setConsole (afterRead s.console)) 0 (zext8 c)

/-- IN from `ConsoleReadChar()` on (R187): the byte read is echoed. -/
def serviceInRead (s : State) : State :=
  match s.console.input with
  | [] => s.setService (some .inChar)
  | c :: _ => writeResult (writeChars (s.setConsole (afterRead s.console)) [c]) 0 (zext8 c)

/-- IN (R187): the prompt, then the read. -/
def serviceIn (s : State) : State := serviceInRead (writeChars s s.params.inPrompt)

/-- OUT (R185). -/
def serviceOut (s : State) : State := writeChars s [lowByte (readReg s 0)]

/-- The bytes PUTS writes for the words at `a` and on, at most `n` words, and whether a zero word ended it (R186).
The address wraps modulo 65536. -/
def putsScan (m : Memory) : Nat → Word → List Byte × Bool
  | 0, _ => ([], false)
  | n + 1, a =>
    if m.read a.toNat = 0x0000#16 then ([], true)
    else (lowByte (m.read a.toNat) :: (putsScan m n (a + 1#16)).1, (putsScan m n (a + 1#16)).2)

/-- The bytes PUTSP writes for one word: the low byte, then the high byte if it is not zero (R188). -/
def putspBytes (w : Word) : List Byte :=
  if highByte w = 0x00#8 then [lowByte w] else [lowByte w, highByte w]

/-- The bytes PUTSP writes for the words at `a` and on, at most `n` words, and whether a zero low byte ended it
(R188). -/
def putspScan (m : Memory) : Nat → Word → List Byte × Bool
  | 0, _ => ([], false)
  | n + 1, a =>
    if lowByte (m.read a.toNat) = 0x00#8 then ([], true)
    else (putspBytes (m.read a.toNat) ++ (putspScan m n (a + 1#16)).1, (putspScan m n (a + 1#16)).2)

/-- How many words one step of a string routine reads at most: all of memory once. A routine that has met no
terminator in all of it never ends (D17, log 12). -/
def scanLimit : Nat := 65536

/-- PUTS from the word at `a` on (R186). After all of memory the address is `a` again. -/
def servicePuts (a : Word) (s : State) : State :=
  (writeChars s (putsScan s.mem scanLimit a).1).setService
    (if (putsScan s.mem scanLimit a).2 then s.service else some (.puts a))

/-- PUTSP from the word at `a` on (R188). -/
def servicePutsp (a : Word) (s : State) : State :=
  (writeChars s (putspScan s.mem scanLimit a).1).setService
    (if (putspScan s.mem scanLimit a).2 then s.service else some (.putsp a))

/-- HALT (R189): the message, then HALTED. -/
def serviceHalt (s : State) : State := haltRun (writeChars s s.params.haltMessage)

/-- A step that goes on with a service in progress: the same routine, from where it stands (R205, R209). -/
def resume (v : Service) (s : State) : State :=
  match v with
  | .getc => serviceGetc (s.setService none)
  | .inChar => serviceInRead (s.setService none)
  | .puts a => servicePuts a (s.setService none)
  | .putsp a => servicePutsp a (s.setService none)

/-! ### The meanings -/

/-- TRAP GETC (R183, R184). -/
def execGetc (s : State) : Result := .next (serviceGetc (linkR7 s))

/-- TRAP OUT (R183, R185). -/
def execOut (s : State) : Result := .next (serviceOut (linkR7 s))

/-- TRAP PUTS (R183, R186). -/
def execPuts (s : State) : Result := .next (servicePuts (readReg (linkR7 s) 0) (linkR7 s))

/-- TRAP IN (R183, R187). -/
def execIn (s : State) : Result := .next (serviceIn (linkR7 s))

/-- TRAP PUTSP (R183, R188). -/
def execPutsp (s : State) : Result := .next (servicePutsp (readReg (linkR7 s) 0) (linkR7 s))

/-- TRAP HALT (R183, R189). -/
def execHalt (s : State) : Result := .next (serviceHalt (linkR7 s))

/-- TRAP with any vector (R183): the entry, then the routine the vector selects, or the fault of R190. The decoder
gives the six services their own constructors, so a decoded `trap` has another vector. -/
def execTrap (low4 : BitVec 4) (vect8 : BitVec 8) (s : State) : Result :=
  if vect8 = Config.vectGetc then .next (serviceGetc (linkR7 s))
  else if vect8 = Config.vectOut then .next (serviceOut (linkR7 s))
  else if vect8 = Config.vectPuts then .next (servicePuts (readReg (linkR7 s) 0) (linkR7 s))
  else if vect8 = Config.vectIn then .next (serviceIn (linkR7 s))
  else if vect8 = Config.vectPutsp then .next (servicePutsp (readReg (linkR7 s) 0) (linkR7 s))
  else if vect8 = Config.vectHalt then .next (serviceHalt (linkR7 s))
  else raiseUnrecognizedTrap (linkR7 s) (encode (.trap low4 vect8))

end Sys2Proof.Machine
end

