-- ==== Sys2Proof/Machine/Environment.lean ====
section
/-! DEFINITION. What the outside world does to the machine (00_scope.md R106, R108; 20_memory.md R144, R145;
60_exceptions.md R196, R197, R206): the boot with an image, input bytes, and the host's stop. -/

namespace Sys2Proof.Machine

/-! ### The image (R144, R145) -/

/-- The 16-bit words of a byte sequence, big-endian; a last odd byte is ignored (R144). -/
def wordsOfBytes : List Byte → List Word
  | b0 :: b1 :: bs => (b0 ++ b1) :: wordsOfBytes bs
  | [_] => []
  | [] => []

/-- The (origin, words) pair of an image file's bytes, or none if they hold no origin (R144). -/
def parseImage (bytes : List Byte) : Option (Word × List Word) :=
  match wordsOfBytes bytes with
  | [] => none
  | origin :: words => some (origin, words)

/-- Words stored at consecutive addresses from `a` on. -/
def storeWords (m : Memory) (a : Nat) : List Word → Memory
  | [] => m
  | w :: ws => storeWords (m.write a w) (a + 1) ws

/-- The load of R145: at most `0xFFFF - origin` words, so that address 0xFFFF is never loaded. It writes the array
directly and does not poll. -/
def loadImage (m : Memory) (origin : Word) (words : List Word) : Memory :=
  storeWords m origin.toNat (words.take (0xFFFF - origin.toNat))

/-- A machine comes up (R210): memory zeroed, the image loaded, the registers and the console set. `image` is none
if the image is missing or unreadable (R196). -/
def boot (p : Params) (input : List Byte) (draws : List Bool) (image : Option (List Byte)) : Result :=
  match image with
  | none => .fault (.startupError .unreadable)
  | some bytes =>
    match parseImage bytes with
    | none => .fault (.startupError .noOrigin)
    | some (origin, words) =>
      .next (((State.start p).setConsole ⟨input, draws, 0, [], .raw⟩).setMem (loadImage [] origin words))

/-! ### During the run (R206) -/

/-- The host delivers more bytes of `In`. -/
def hostDeliver (bs : List Byte) (s : State) : State :=
  s.setConsole { s.console with input := s.console.input ++ bs }

/-- The host requests a stop, which lands after `k` more steps, in the next one once it has written `n` bytes
(R197). -/
def hostStop (k n : Nat) (s : State) : State := s.setStop (some ⟨k, n⟩)

/-- The output at a stop that lands in a step from `s` whose full run would answer `r`: what was written before
the step, and at most `n` bytes of what the step writes (R197, C7). A step that ends in an error writes nothing. -/
def outAtStop (n : Nat) (s : State) (r : Result) : List Byte :=
  match r with
  | .next t => t.console.out.take (s.console.out.length + n)
  | .fault _ => s.console.out
  | .refused _ => s.console.out

/-- The outcome Stopped (R197, R213): the console restored, the output written so far, and nothing else. -/
def stopRun (n : Nat) (s : State) (r : Result) : Result :=
  .fault (.interrupt (outAtStop n s r) (restoreMode s).console.mode)

/-- A state made ready to fetch: RUNNING, no service in progress, no stop request, and its next instruction's word
`w` stored at pc. What a loader would place, in one operation (log 20). -/
def placeWord (s : State) (w : Word) : State :=
  (((s.setMem (s.mem.write s.pc.toNat w)).setRun .running).setService none).setStop none

end Sys2Proof.Machine
end

