-- ==== Sys2Proof/Machine/Step.lean ====
section
/-! DEFINITION. One step of the engine (30_encoding.md R162). -/

namespace Sys2Proof.Machine

/-- The step of a RUNNING machine that no stop interrupts: the service in progress goes on, or the next instruction
is fetched, decoded and executed. -/
def advance (s : State) : Host.Outcome State Fault Refusal :=
  match s.service with
  | some v => .next (resume v s)
  | none => exec (decode (fetch s).1) (fetch s).2

/-- One step. HALTED is final: no fetch happens and nothing changes (R128, log 13). A stop request that lands in the
step ends the run (R197); one that lands later comes one step nearer. -/
def step (s : State) : Host.Outcome State Fault Refusal :=
  match s.run with
  | .halted => .next s
  | .running =>
    match s.stop with
    | none => advance s
    | some ⟨0, n⟩ => stopRun n s (advance s)
    | some ⟨k + 1, n⟩ => advance (s.setStop (some ⟨k, n⟩))

/-- `s` with the word of one instruction placed where `step` fetches its next instruction (log 20). -/
def State.withFetchWord (s : State) (_nbits w : Nat) : State := placeWord s (BitVec.ofNat 16 w)

end Sys2Proof.Machine
end

