-- ==== Sys2Proof/Safety.lean ====
section
/-! DEFINITION. The terms that claims are stated in: the invariant every step keeps, when a machine is about to
fetch, what a step leaves unchanged, and the lists of 10_state.md and 20_memory.md that say which instructions
write what. -/

namespace Sys2Proof.Machine

/-- The invariant: memory is in its canonical form, KBSR_ADDR and KBDR_ADDR differ (R110), the console is in the
run's mode exactly while the engine is RUNNING (R205, R213), and a HALTED engine has no service in progress
(R128, R209). -/
def State.inv (s : State) : Bool :=
  s.mem.wf && s.params.wf
    && ((s.run == .running && s.console.mode == .raw) || (s.run == .halted && s.console.mode == .prior && s.service == none))

/-- The machine is about to fetch: RUNNING, no service in progress, and no host stop is to come. -/
def State.ready (s : State) : Prop := s.run = .running ∧ s.service = none ∧ s.stop = none

/-- The register that the three bits of `w` from bit `lo` on name (R155). -/
def regAt (lo : Nat) (w : Word) : Reg := (w.extractLsb' lo 3).toFin

/-! ### Frames -/

/-- Every general register but those of `ds` is unchanged. -/
def sameRegsBut (ds : List Reg) (s t : State) : Prop := ∀ r : Reg, r ∉ ds → readReg t r = readReg s r

/-- Every word of memory is unchanged. -/
def sameMemory (s t : State) : Prop := ∀ a : Word, rawRead t a = rawRead s a

/-- Every word of memory but the one at `ea` is unchanged. -/
def sameMemoryBut (ea : Word) (s t : State) : Prop := ∀ a : Word, a ≠ ea → rawRead t a = rawRead s a

/-- The run state, the service in progress, the stop request and the parameters are unchanged. -/
def sameEngine (s t : State) : Prop :=
  t.run = s.run ∧ t.service = s.service ∧ t.stop = s.stop ∧ t.params = s.params

/-- `t` is `s` but for the result `v` in `d` and the flag set from it (R123). -/
def resultIn (d : Reg) (v : Word) (s t : State) : Prop :=
  readReg t d = v ∧ t.cond = condOf v ∧ sameRegsBut [d] s t ∧ t.pc = s.pc ∧ sameMemory s t
    ∧ t.console = s.console ∧ sameEngine s t

/-- `t` is `s` but for pc, which is `target`, and, where `link` is given, R7 (R170). -/
def transferTo (target : Word) (link : Option Word) (s t : State) : Prop :=
  t.pc = target ∧ (∀ v ∈ link, readReg t 7 = v) ∧ sameRegsBut (if link.isSome then [7] else []) s t
    ∧ t.cond = s.cond ∧ sameMemory s t ∧ t.console = s.console ∧ sameEngine s t

/-- `t` is `s` but for the word `v` stored at `ea`. -/
def storedAt (ea v : Word) (s t : State) : Prop :=
  rawRead t ea = v ∧ sameMemoryBut ea s t ∧ sameRegsBut [] s t ∧ t.pc = s.pc ∧ t.cond = s.cond
    ∧ t.console = s.console ∧ sameEngine s t

/-- `t` is `s` after a TRAP whose service read nothing and wrote `bs` to the console: R7 holds the return address
(R183). -/
def wroteOut (bs : List Byte) (s t : State) : Prop :=
  readReg t 7 = s.pc ∧ sameRegsBut [7] s t ∧ t.pc = s.pc ∧ t.cond = s.cond ∧ sameMemory s t
    ∧ t.console = { s.console with out := s.console.out ++ bs } ∧ sameEngine s t

/-- `t` is `s` after a TRAP whose service took the byte `c` from `In`, writing `bs` to the console (R184, R187). -/
def tookChar (c : Byte) (bs : List Byte) (s t : State) : Prop :=
  readReg t 7 = s.pc ∧ readReg t 0 = zext8 c ∧ t.cond = condOf (zext8 c) ∧ sameRegsBut [0, 7] s t ∧ t.pc = s.pc
    ∧ sameMemory s t
    ∧ t.console = { s.console with input := s.console.input.tail, out := s.console.out ++ bs } ∧ sameEngine s t

/-- `t` is `s` after a TRAP whose service `v` has begun, has written `bs` and has not completed. -/
def inService (v : Service) (bs : List Byte) (s t : State) : Prop :=
  readReg t 7 = s.pc ∧ sameRegsBut [7] s t ∧ t.pc = s.pc ∧ t.cond = s.cond ∧ sameMemory s t
    ∧ t.console = { s.console with out := s.console.out ++ bs }
    ∧ t.run = s.run ∧ t.service = some v ∧ t.stop = s.stop ∧ t.params = s.params

/-- The machine after a KBSR poll of `s` (R135), field by field. -/
def polled (s t : State) : Prop :=
  sameRegsBut [] s t ∧ t.pc = s.pc ∧ t.cond = s.cond ∧ sameEngine s t
    ∧ t.console = { s.console with
        input := if pollAnswer s.console then s.console.input.tail else s.console.input,
        draws := s.console.draws.tail, polls := s.console.polls + 1 }
    ∧ (∀ a : Word, a ≠ s.params.kbsrAddr → a ≠ s.params.kbdrAddr → rawRead t a = rawRead s a)

/-! ### Which instructions write what -/

/-- The general registers an instruction writes (R118). -/
def regsWritten : Instr → List Reg
  | .addReg dr _ _ => [dr]
  | .addImm dr _ _ => [dr]
  | .andReg dr _ _ => [dr]
  | .andImm dr _ _ => [dr]
  | .not dr _ => [dr]
  | .br _ _ => []
  | .jmp _ => []
  | .jsr _ => [7]
  | .jsrr _ => [7]
  | .ld dr _ => [dr]
  | .st _ _ => []
  | .ldr dr _ _ => [dr]
  | .str _ _ _ => []
  | .res8 _ => []
  | .ldi dr _ => [dr]
  | .sti _ _ => []
  | .res13 _ => []
  | .lea dr _ => [dr]
  | .trap _ vect8 => if vect8 = Config.vectGetc ∨ vect8 = Config.vectIn then [0, 7] else [7]
  | .nop _ => []
  | .ret => []
  | .getc => [0, 7]
  | .out => [7]
  | .puts => [7]
  | .inChar => [0, 7]
  | .putsp => [7]
  | .halt => [7]

/-- The instructions that call setcc (R123). -/
def writesCond : Instr → Bool
  | .addReg _ _ _ => true
  | .addImm _ _ _ => true
  | .andReg _ _ _ => true
  | .andImm _ _ _ => true
  | .not _ _ => true
  | .br _ _ => false
  | .jmp _ => false
  | .jsr _ => false
  | .jsrr _ => false
  | .ld _ _ => true
  | .st _ _ => false
  | .ldr _ _ _ => true
  | .str _ _ _ => false
  | .res8 _ => false
  | .ldi _ _ => true
  | .sti _ _ => false
  | .res13 _ => false
  | .lea _ _ => true
  | .trap _ vect8 => decide (vect8 = Config.vectGetc ∨ vect8 = Config.vectIn)
  | .nop _ => false
  | .ret => false
  | .getc => true
  | .out => false
  | .puts => false
  | .inChar => true
  | .putsp => false
  | .halt => false

/-- The instructions that change pc after the fetch (R120). -/
def writesPc : Instr → Bool
  | .addReg _ _ _ => false
  | .addImm _ _ _ => false
  | .andReg _ _ _ => false
  | .andImm _ _ _ => false
  | .not _ _ => false
  | .br _ _ => true
  | .jmp _ => true
  | .jsr _ => true
  | .jsrr _ => true
  | .ld _ _ => false
  | .st _ _ => false
  | .ldr _ _ _ => false
  | .str _ _ _ => false
  | .res8 _ => false
  | .ldi _ _ => false
  | .sti _ _ => false
  | .res13 _ => false
  | .lea _ _ => false
  | .trap _ _ => false
  | .nop _ => false
  | .ret => true
  | .getc => false
  | .out => false
  | .puts => false
  | .inChar => false
  | .putsp => false
  | .halt => false

/-- The addresses an instruction reads with `MemRead` in state `s`, in order (R138). -/
def memReads (s : State) : Instr → List Word
  | .ld _ off9 => [pcRel s off9]
  | .ldr _ base off6 => [baseOff s base off6]
  | .ldi _ off9 => [pcRel s off9, (indirect s off9).1]
  | .sti _ off9 => [pcRel s off9]
  | .addReg _ _ _ => []
  | .addImm _ _ _ => []
  | .andReg _ _ _ => []
  | .andImm _ _ _ => []
  | .not _ _ => []
  | .br _ _ => []
  | .jmp _ => []
  | .jsr _ => []
  | .jsrr _ => []
  | .st _ _ => []
  | .str _ _ _ => []
  | .res8 _ => []
  | .res13 _ => []
  | .lea _ _ => []
  | .trap _ _ => []
  | .nop _ => []
  | .ret => []
  | .getc => []
  | .out => []
  | .puts => []
  | .inChar => []
  | .putsp => []
  | .halt => []

/-- The address an instruction stores to with `MemWrite` in state `s`, if it stores (R138). -/
def memStore (s : State) : Instr → Option Word
  | .st _ off9 => some (pcRel s off9)
  | .sti _ off9 => some (indirect s off9).1
  | .str _ base off6 => some (baseOff s base off6)
  | .ld _ _ => none
  | .ldr _ _ _ => none
  | .ldi _ _ => none
  | .addReg _ _ _ => none
  | .addImm _ _ _ => none
  | .andReg _ _ _ => none
  | .andImm _ _ _ => none
  | .not _ _ => none
  | .br _ _ => none
  | .jmp _ => none
  | .jsr _ => none
  | .jsrr _ => none
  | .res8 _ => none
  | .res13 _ => none
  | .lea _ _ => none
  | .trap _ _ => none
  | .nop _ => none
  | .ret => none
  | .getc => none
  | .out => none
  | .puts => none
  | .inChar => none
  | .putsp => none
  | .halt => none

/-! ### Runs -/

/-- `k` steps from `s` end in `t`, none of them a fault or a refusal. -/
def runsTo (k : Nat) (s t : State) : Prop := core.run k s = .next t

end Sys2Proof.Machine
end

