-- ==== Sys2Proof/Certificates/Slice0/Obligations.lean ====
section
/-! DEFINITION. The statements for the provers, each from a numbered rule of spec/ or from its prose. -/

open Sys2Proof Sys2Proof.Machine

/-! ### Encoding -/

/-- Words written out from the patterns of 30_encoding.md R154 and the examples of the instruction rules decode to
the instruction they stand for. -/
def Obligations.SpecWordsDecode : Prop :=
  decode 0x1401#16 = .addReg 2 0 1 ∧ decode 0x103F#16 = .addImm 0 0 0x1F#5 ∧ decode 0x5642#16 = .andReg 3 1 2
    ∧ decode 0x5020#16 = .andImm 0 0 0#5 ∧ decode 0x98FF#16 = .not 4 3 ∧ decode 0x0A02#16 = .br 0b101#3 2#9
    ∧ decode 0xC080#16 = .jmp 2 ∧ decode 0x4803#16 = .jsr 3#11 ∧ decode 0x4080#16 = .jsrr 2
    ∧ decode 0x7642#16 = .str 3 1 2#6 ∧ decode 0xE207#16 = .lea 1 7#9 ∧ decode 0xF125#16 = .halt

/-- R154, R159: every well-formed instruction, every operand at every value, is read back from its word. -/
def Obligations.DecodeOfEncode : Prop := ∀ i : Instr, i.wellFormed = true → decode (encode i) = i

/-- R154, R157: every word decodes to a well-formed instruction whose own word has the same bits wherever the row
reads a bit. Nothing the row reads is dropped. -/
def Obligations.EncodeOfDecodeKeepsEveryReadBit : Prop :=
  ∀ w : Word, (decode w).wellFormed = true ∧ encode (decode w) &&& (decode w).row.reads = w &&& (decode w).row.reads

/-- R154: the 19 rows that refine no other partition the 65536 words, and the row of the decoded instruction is the
most specific row that matches the word. -/
def Obligations.TablePartitionsTheWords : Prop :=
  ∀ w : Word,
    (opcodeTable.filter fun r => !r.refines && r.admits w).length = 1
      ∧ (decode w).row ∈ opcodeTable ∧ (decode w).row.admits w = true
      ∧ ∀ r ∈ opcodeTable, r.admits w = true → r.mask &&& (decode w).row.mask = r.mask

/-- R157: two words that agree on the bits their row reads are the same instruction (but for the ignored bits that
an error record shows); 0x9000 is NOT R0, R0. -/
def Obligations.IgnoredBitsDoNotChangeTheInstruction : Prop :=
  (∀ w w' : Word, w &&& (decode w).row.reads = w' &&& (decode w).row.reads →
    (decode w').withoutIgnored = (decode w).withoutIgnored) ∧ decode 0x9000#16 = .not 0 0

/-- R158: executing a word raises IllegalInstruction exactly if its opcode is 0x8 or 0xD, whatever its other bits. -/
def Obligations.IllegalExactlyTheReservedOpcodes : Prop :=
  ∀ (w : Word) (s : State),
    (∃ a ir f, exec (decode w) s = .fault (.illegalInstruction a ir f)) ↔ (opcodeOf w = 0x8#4 ∨ opcodeOf w = 0xD#4)

/-- R113: the formula of `sext_N` for the four widths in use. -/
def Obligations.SignExtensionFormula : Prop :=
  ∀ n ∈ [5, 6, 9, 11], ∀ v : BitVec n,
    sext v = if v.getLsbD (n - 1) then v.setWidth 16 + (0xFFFF#16 <<< n) else v.setWidth 16

/-! ### The flag -/

/-- R122: `setcc(v)` sets ZERO, NEGATIVE or POSITIVE from the value and changes nothing else. -/
def Obligations.SetccRule : Prop :=
  ∀ (s : State) (v : Word),
    (v = 0x0000#16 → (setcc s v).cond = .zero) ∧ (v.getLsbD 15 = true → (setcc s v).cond = .negative)
      ∧ (v ≠ 0x0000#16 → v.getLsbD 15 = false → (setcc s v).cond = .positive)
      ∧ sameRegsBut [] s (setcc s v) ∧ (setcc s v).pc = s.pc ∧ sameMemory s (setcc s v)
      ∧ (setcc s v).console = s.console ∧ sameEngine s (setcc s v)

/-! ### Memory and the keyboard device -/

/-- R136: a store sets its own word, at every address, the device words among them, and has no other effect. -/
def Obligations.StoreSetsOneWord : Prop :=
  ∀ (s : State) (a v : Word), storedAt a v s (memWrite s a v)

/-- R134: `MemRead` of an address other than KBSR_ADDR answers the stored word and changes nothing; of KBSR_ADDR it
polls first and answers the word the poll left. -/
def Obligations.MemReadRule : Prop :=
  ∀ (s : State) (a : Word),
    (a ≠ s.params.kbsrAddr → memRead s a = (rawRead s a, s))
      ∧ (a = s.params.kbsrAddr → memRead s a = (rawRead (kbsrPoll s) a, kbsrPoll s))

/-- R135: a poll that finds a character sets KBSR to 0x8000, takes the character and puts it zero-extended in KBDR;
one that finds none writes 0 to KBSR and leaves KBDR. Every other word, register, pc and flag is unchanged.
The model's form, in two clauses: a poll finds a character exactly if a byte is left and its draw is true, which is the
law of R205 for a free draw, and each poll drops one scheduled draw and counts one up (notes/assumptions/9.md, DESIGN
CHOICE). No clause rests on a draw's value. -/
def Obligations.KeyboardPollRule : Prop :=
  ∀ s : State, s.params.kbsrAddr ≠ s.params.kbdrAddr →
    polled s (kbsrPoll s)
      ∧ (pollAnswer s.console = true ↔ s.console.input ≠ [] ∧ drawOf s.console = true)
      ∧ (∀ c rest, s.console.input = c :: rest → pollAnswer s.console = true →
          rawRead (kbsrPoll s) s.params.kbsrAddr = 0x8000#16 ∧ rawRead (kbsrPoll s) s.params.kbdrAddr = zext8 c)
      ∧ (pollAnswer s.console = false →
          rawRead (kbsrPoll s) s.params.kbsrAddr = 0x0000#16
            ∧ rawRead (kbsrPoll s) s.params.kbdrAddr = rawRead s s.params.kbdrAddr)

/-- R126: no `MemRead` of KBSR returns a value stored there: it returns 0x8000 or 0x0000, whatever a store put
before it. -/
def Obligations.KbsrReadNeverShowsAStoredValue : Prop :=
  ∀ (s : State) (v : Word), s.params.kbsrAddr ≠ s.params.kbdrAddr →
    (memRead (memWrite s s.params.kbsrAddr v) s.params.kbsrAddr).1
      = if pollAnswer s.console then 0x8000#16 else 0x0000#16

/-- Memories in the canonical form that read alike at every address are equal lists (notes/assumptions/1.md). -/
def Obligations.CanonicalMemoryIsUnique : Prop :=
  ∀ m m' : Memory, m.wf = true → m'.wf = true → (∀ a : Word, m.read a.toNat = m'.read a.toNat) → m = m'

/-! ### Operate instructions -/

/-- R165: ADD, register mode, on every state. Its encoding is the first clause. -/
def Obligations.AddRegister : Prop :=
  (∀ w : Word, opcodeOf w = 0x1#4 → w.getLsbD 5 = false → decode w = .addReg (regAt 9 w) (regAt 6 w) (regAt 0 w))
    ∧ (∀ (dr sr1 sr2 : Reg) (s : State),
        ∃ t, exec (.addReg dr sr1 sr2) s = .next t ∧ resultIn dr (readReg s sr1 + readReg s sr2) s t)

/-- R166: ADD, immediate mode, on every state. Its encoding is the first clause. -/
def Obligations.AddImmediate : Prop :=
  (∀ w : Word, opcodeOf w = 0x1#4 → w.getLsbD 5 = true →
      decode w = .addImm (regAt 9 w) (regAt 6 w) (w.extractLsb' 0 5))
    ∧ (∀ (dr sr1 : Reg) (imm5 : BitVec 5) (s : State),
        ∃ t, exec (.addImm dr sr1 imm5) s = .next t ∧ resultIn dr (readReg s sr1 + sext imm5) s t)

/-- R167: AND, register mode, on every state. Its encoding is the first clause. -/
def Obligations.AndRegister : Prop :=
  (∀ w : Word, opcodeOf w = 0x5#4 → w.getLsbD 5 = false → decode w = .andReg (regAt 9 w) (regAt 6 w) (regAt 0 w))
    ∧ (∀ (dr sr1 sr2 : Reg) (s : State),
        ∃ t, exec (.andReg dr sr1 sr2) s = .next t ∧ resultIn dr (readReg s sr1 &&& readReg s sr2) s t)

/-- R168: AND, immediate mode, on every state. Its encoding is the first clause. -/
def Obligations.AndImmediate : Prop :=
  (∀ w : Word, opcodeOf w = 0x5#4 → w.getLsbD 5 = true →
      decode w = .andImm (regAt 9 w) (regAt 6 w) (w.extractLsb' 0 5))
    ∧ (∀ (dr sr1 : Reg) (imm5 : BitVec 5) (s : State),
        ∃ t, exec (.andImm dr sr1 imm5) s = .next t ∧ resultIn dr (readReg s sr1 &&& sext imm5) s t)

/-- R169: NOT, on every state. Its encoding is the first clause. -/
def Obligations.NotComplements : Prop :=
  (∀ w : Word, opcodeOf w = 0x9#4 → decode w = .not (regAt 9 w) (regAt 6 w))
    ∧ (∀ (dr sr : Reg) (s : State), ∃ t, exec (.not dr sr) s = .next t ∧ resultIn dr (~~~ readReg s sr) s t)

/-! ### Control transfer -/

/-- R171: BR is taken if one of its mask bits meets the flag; then pc is the incremented pc plus the offset, else it
stays. The no-op of mask 000 is NOP; the encoding stands before the rule. -/
def Obligations.BranchRule : Prop :=
  (∀ (off9 : BitVec 9) (s : State), exec (.nop off9) s = .next s)
    ∧ (∀ w : Word, opcodeOf w = 0x0#4 → w.extractLsb' 9 3 ≠ 0b000#3 →
      decode w = .br (w.extractLsb' 9 3) (w.extractLsb' 0 9))
    ∧ (∀ w : Word, opcodeOf w = 0x0#4 → w.extractLsb' 9 3 = 0b000#3 → decode w = .nop (w.extractLsb' 0 9))
    ∧ (∀ (nzp : BitVec 3) (off9 : BitVec 9) (s : State),
        ∃ t, exec (.br nzp off9) s = .next t
          ∧ ((nzp.getLsbD 2 = true ∧ s.cond = .negative ∨ nzp.getLsbD 1 = true ∧ s.cond = .zero
                ∨ nzp.getLsbD 0 = true ∧ s.cond = .positive) → transferTo (s.pc + sext off9) none s t)
          ∧ (¬ (nzp.getLsbD 2 = true ∧ s.cond = .negative ∨ nzp.getLsbD 1 = true ∧ s.cond = .zero
                ∨ nzp.getLsbD 0 = true ∧ s.cond = .positive) → transferTo s.pc none s t))

/-- R160: a BR whose mask is 000 (NOP) does nothing beyond the step's advance, and the all-zero word is one. -/
def Obligations.NopDoesNothing : Prop :=
  (∀ (off9 : BitVec 9) (s : State), exec (.nop off9) s = .next s ∧ exec (.br 0b000#3 off9) s = .next s)
    ∧ decode 0x0000#16 = .nop 0#9

/-- R172: JMP goes to the base register's value, RET to R7's. Their encoding is the first two clauses. -/
def Obligations.JumpAndReturn : Prop :=
  (∀ w : Word, opcodeOf w = 0xC#4 → regAt 6 w ≠ 7 → decode w = .jmp (regAt 6 w))
    ∧ (∀ w : Word, opcodeOf w = 0xC#4 → regAt 6 w = 7 → decode w = .ret)
    ∧ (∀ s : State, (∀ base : Reg, ∃ t, exec (.jmp base) s = .next t ∧ transferTo (readReg s base) none s t)
        ∧ ∃ t, exec .ret s = .next t ∧ transferTo (readReg s 7) none s t)

/-- R173: JSR links in R7 and goes to the incremented pc plus the offset. Its encoding is the first clause. -/
def Obligations.JsrLinksAndJumps : Prop :=
  (∀ w : Word, opcodeOf w = 0x4#4 → w.getLsbD 11 = true → decode w = .jsr (w.extractLsb' 0 11))
    ∧ (∀ (off11 : BitVec 11) (s : State),
        ∃ t, exec (.jsr off11) s = .next t ∧ transferTo (s.pc + sext off11) (some s.pc) s t)

/-- R174: JSRR links in R7 and then reads BaseR, so through R7 it stays at the incremented pc.
Its encoding is the first clause. -/
def Obligations.JsrrReadsAfterTheLink : Prop :=
  (∀ w : Word, opcodeOf w = 0x4#4 → w.getLsbD 11 = false → decode w = .jsrr (regAt 6 w))
    ∧ (∀ (base : Reg) (s : State),
        ∃ t, exec (.jsrr base) s = .next t
          ∧ transferTo (if base = 7 then s.pc else readReg s base) (some s.pc) s t)

/-! ### Loads, LEA and stores -/

/-- R176: LD; a load from KBSR_ADDR polls first. Its encoding is the first clause. -/
def Obligations.LdLoads : Prop :=
  (∀ w : Word, opcodeOf w = 0x2#4 → decode w = .ld (regAt 9 w) (w.extractLsb' 0 9))
    ∧ (∀ (dr : Reg) (off9 : BitVec 9) (s : State),
        ∃ t, exec (.ld dr off9) s = .next t
          ∧ (s.pc + sext off9 ≠ s.params.kbsrAddr → resultIn dr (rawRead s (s.pc + sext off9)) s t)
          ∧ (s.pc + sext off9 = s.params.kbsrAddr →
              resultIn dr (rawRead (kbsrPoll s) s.params.kbsrAddr) (kbsrPoll s) t))

/-- R177: LDI; the pointer read and then the target read are each a `MemRead`. Its encoding is the first clause. -/
def Obligations.LdiLoads : Prop :=
  (∀ w : Word, opcodeOf w = 0xA#4 → decode w = .ldi (regAt 9 w) (w.extractLsb' 0 9))
    ∧ (∀ (dr : Reg) (off9 : BitVec 9) (s : State),
        ∃ t, exec (.ldi dr off9) s = .next t
          ∧ ∀ p v s1 s2, memRead s (s.pc + sext off9) = (p, s1) → memRead s1 p = (v, s2) → resultIn dr v s2 t)

/-- R178: LDR; the base is read before the destination is written. Its encoding is the first clause. -/
def Obligations.LdrLoads : Prop :=
  (∀ w : Word, opcodeOf w = 0x6#4 → decode w = .ldr (regAt 9 w) (regAt 6 w) (w.extractLsb' 0 6))
    ∧ (∀ (dr base : Reg) (off6 : BitVec 6) (s : State),
        ∃ t, exec (.ldr dr base off6) s = .next t
          ∧ (readReg s base + sext off6 ≠ s.params.kbsrAddr → resultIn dr (rawRead s (readReg s base + sext off6)) s t)
          ∧ (readReg s base + sext off6 = s.params.kbsrAddr →
              resultIn dr (rawRead (kbsrPoll s) s.params.kbsrAddr) (kbsrPoll s) t))

/-- R179: LEA; the address itself is the result, no memory is read, the flag is set.
Its encoding is the first clause. -/
def Obligations.LeaGivesTheAddress : Prop :=
  (∀ w : Word, opcodeOf w = 0xE#4 → decode w = .lea (regAt 9 w) (w.extractLsb' 0 9))
    ∧ (∀ (dr : Reg) (off9 : BitVec 9) (s : State),
        ∃ t, exec (.lea dr off9) s = .next t ∧ resultIn dr (s.pc + sext off9) s t)

/-- R181: STI stores at the word a `MemRead` of the PC-relative address gives, in the state that read left; the
store does not poll. Its encoding is the first clause. -/
def Obligations.StiStores : Prop :=
  (∀ w : Word, opcodeOf w = 0xB#4 → decode w = .sti (regAt 9 w) (w.extractLsb' 0 9))
    ∧ (∀ (sr : Reg) (off9 : BitVec 9) (s : State),
        ∃ t, exec (.sti sr off9) s = .next t
          ∧ ∀ p s1, memRead s (s.pc + sext off9) = (p, s1) → storedAt p (readReg s sr) s1 t)

/-- R180, R182: ST stores at the PC-relative address and STR at base plus offset; they change nothing else, the flag
included. Their encodings are the first two clauses. -/
def Obligations.StAndStrStore : Prop :=
  (∀ w : Word, opcodeOf w = 0x3#4 → decode w = .st (regAt 9 w) (w.extractLsb' 0 9))
    ∧ (∀ w : Word, opcodeOf w = 0x7#4 → decode w = .str (regAt 9 w) (regAt 6 w) (w.extractLsb' 0 6))
    ∧ (∀ (sr : Reg) (s : State),
        (∀ off9 : BitVec 9, ∃ t, exec (.st sr off9) s = .next t ∧ storedAt (s.pc + sext off9) (readReg s sr) s t)
        ∧ ∀ (base : Reg) (off6 : BitVec 6),
            ∃ t, exec (.str sr base off6) s = .next t ∧ storedAt (readReg s base + sext off6) (readReg s sr) s t)

/-- R149: a store by ST, STI or STR to the word at the incremented pc is what the next fetch gives, so the next step
runs the instruction stored. -/
def Obligations.StoreIsSeenByTheNextFetch : Prop :=
  ∀ (i : Instr) (sr : Reg) (s t : State),
    ((∃ off9, i = .st sr off9) ∨ (∃ off9, i = .sti sr off9) ∨ ∃ base off6, i = .str sr base off6) →
    memStore s i = some s.pc → s.pc ≠ s.params.kbsrAddr → exec i s = .next t →
    (fetch t).1 = readReg s sr ∧ (fetch t).2.pc = s.pc + 1#16
      ∧ (t.ready → step t = exec (decode (readReg s sr)) (fetch t).2)

/-! ### TRAP and the services -/

/-- R183: a `trap` term with any ignored bits and one of the six vectors is the service of that vector. It answers a
next state with the return address in R7 and pc at the incremented value. No word decodes to such a term, which is not
well formed: that `trap` keeps the whole of R183 for it is the model's choice (notes/assumptions/24.md, DESIGN CHOICE).
Decoded words reach the services through their own constructors, and the six statements of the services say what those
do and which words are theirs. -/
def Obligations.TrapDispatch : Prop :=
  (∀ (low4 : BitVec 4) (s : State),
    exec (.trap low4 0x20#8) s = exec .getc s ∧ exec (.trap low4 0x21#8) s = exec .out s
      ∧ exec (.trap low4 0x22#8) s = exec .puts s ∧ exec (.trap low4 0x23#8) s = exec .inChar s
      ∧ exec (.trap low4 0x24#8) s = exec .putsp s ∧ exec (.trap low4 0x25#8) s = exec .halt s)
  ∧ ∀ (low4 : BitVec 4) (vect8 : BitVec 8) (s : State), 0x20#8 ≤ vect8 → vect8 ≤ 0x25#8 →
      ∃ t, exec (.trap low4 vect8) s = .next t ∧ readReg t 7 = s.pc ∧ t.pc = s.pc

/-- R184: GETC with a byte left takes it into R0, sets the flag from it (a byte 0 gives ZERO, every other POSITIVE)
and writes nothing. With no byte left the step does not complete: the machine is in the service, and every later
step that no stop interrupts leaves it there. R184 says only that the step never completes: the next state that holds the
service, R7 written, is the model's form of it (notes/assumptions/11.md, DESIGN CHOICE). Its vector is the first
clause. -/
def Obligations.GetcTakesAByteOrWaits : Prop :=
  (∀ w : Word, opcodeOf w = 0xF#4 → w.extractLsb' 0 8 = 0x20#8 → decode w = .getc)
    ∧ (∀ s : State,
        (∀ c rest, s.console.input = c :: rest →
          ∃ t, exec .getc s = .next t ∧ tookChar c [] s t ∧ (c = 0#8 → t.cond = .zero) ∧ (c ≠ 0#8 → t.cond = .positive))
        ∧ (s.console.input = [] →
          ∃ t, exec .getc s = .next t ∧ inService .getc [] s t
            ∧ (s.run = .running → s.stop = none → ∀ k, core.run k t = .next t)))

/-- R185: OUT writes the low byte of R0. Its vector is the first clause. -/
def Obligations.OutWritesTheLowByte : Prop :=
  (∀ w : Word, opcodeOf w = 0xF#4 → w.extractLsb' 0 8 = 0x21#8 → decode w = .out)
    ∧ (∀ s : State, ∃ t, exec .out s = .next t ∧ wroteOut [(readReg s 0).extractLsb' 0 8] s t)

/-- R186: PUTS writes the low byte of each word from the address in R0 up to the first zero word, wherever in memory
that word lies, and completes. If no word of memory is zero it never ends: after any number of steps the machine is
still in the service, pc, flag, registers and memory as its entry left them, and what it has written is the low byte of
each word read, in order. R186 says only that the routine never ends: that it answers next states, 65536 words at each
step, is the model's form of it (notes/assumptions/12.md, DESIGN CHOICE). Its vector is the first clause. -/
def Obligations.PutsWritesUpToTheZeroWordOrNeverEnds : Prop :=
  (∀ w : Word, opcodeOf w = 0xF#4 → w.extractLsb' 0 8 = 0x22#8 → decode w = .puts)
    ∧ (∀ s : State,
        (∀ n < 65536, (∀ k < n, rawRead s (readReg s 0 + BitVec.ofNat 16 k) ≠ 0x0000#16) →
          rawRead s (readReg s 0 + BitVec.ofNat 16 n) = 0x0000#16 →
          ∃ t, exec .puts s = .next t
            ∧ wroteOut ((List.range n).map fun k => (rawRead s (readReg s 0 + BitVec.ofNat 16 k)).extractLsb' 0 8) s t)
        ∧ (s.ready → (∀ a : Word, rawRead s a ≠ 0x0000#16) →
          ∃ t, exec .puts s = .next t ∧ ∀ k, ∃ u, core.run k t = .next u ∧ u.service = some (.puts (readReg s 0))
            ∧ u.pc = s.pc ∧ u.regs = t.regs ∧ u.mem = s.mem ∧ u.run = .running ∧ u.cond = s.cond
            ∧ u.console.out = s.console.out ++ (List.range ((k + 1) * 65536)).map fun j =>
                (rawRead s (readReg s 0 + BitVec.ofNat 16 j)).extractLsb' 0 8))

/-- R187: IN with a byte left writes the prompt, takes the byte into R0, echoes it and sets the flag. With no byte
left the step does not complete after the prompt: R187 says no more, and the next state that holds the service, which
later steps leave as it is, is the model's form of it (notes/assumptions/11.md, DESIGN CHOICE). The prompt is an open
parameter of any value. Its vector is the first clause. -/
def Obligations.InPromptsReadsAndEchoesOrWaits : Prop :=
  (∀ w : Word, opcodeOf w = 0xF#4 → w.extractLsb' 0 8 = 0x23#8 → decode w = .inChar)
    ∧ (∀ s : State,
        (∀ c rest, s.console.input = c :: rest →
          ∃ t, exec .inChar s = .next t ∧ tookChar c (s.params.inPrompt ++ [c]) s t)
        ∧ (s.console.input = [] →
          ∃ t, exec .inChar s = .next t ∧ inService .inChar s.params.inPrompt s t
            ∧ (s.run = .running → s.stop = none → ∀ k, core.run k t = .next t)))

/-- R188: PUTSP writes the low byte of each word and then its high byte if that is not zero, up to the first word
whose low byte is zero, and completes. If no word of memory has a zero low byte it never ends: after any number of
steps the machine is still in the service, pc, flag, registers and memory as its entry left them, and what it has
written is the bytes of each word read, in order. R188 says only that the routine never ends: that it answers next
states, 65536 words at each step, is the model's form of it (notes/assumptions/12.md, DESIGN CHOICE). Its vector is the
first clause. -/
def Obligations.PutspWritesUpToTheZeroLowByteOrNeverEnds : Prop :=
  (∀ w : Word, opcodeOf w = 0xF#4 → w.extractLsb' 0 8 = 0x24#8 → decode w = .putsp)
    ∧ (∀ s : State,
        (∀ n < 65536, (∀ k < n, (rawRead s (readReg s 0 + BitVec.ofNat 16 k)).extractLsb' 0 8 ≠ 0x00#8) →
          (rawRead s (readReg s 0 + BitVec.ofNat 16 n)).extractLsb' 0 8 = 0x00#8 →
          ∃ t, exec .putsp s = .next t
            ∧ wroteOut ((List.range n).flatMap fun k =>
                (rawRead s (readReg s 0 + BitVec.ofNat 16 k)).extractLsb' 0 8
                  :: (if (rawRead s (readReg s 0 + BitVec.ofNat 16 k)).extractLsb' 8 8 = 0x00#8 then []
                      else [(rawRead s (readReg s 0 + BitVec.ofNat 16 k)).extractLsb' 8 8])) s t)
        ∧ (s.ready → (∀ a : Word, (rawRead s a).extractLsb' 0 8 ≠ 0x00#8) →
          ∃ t, exec .putsp s = .next t ∧ ∀ k, ∃ u, core.run k t = .next u ∧ u.service = some (.putsp (readReg s 0))
            ∧ u.pc = s.pc ∧ u.regs = t.regs ∧ u.mem = s.mem ∧ u.run = .running ∧ u.cond = s.cond
            ∧ u.console.out = s.console.out ++ (List.range ((k + 1) * 65536)).flatMap fun j =>
                (rawRead s (readReg s 0 + BitVec.ofNat 16 j)).extractLsb' 0 8
                  :: (if (rawRead s (readReg s 0 + BitVec.ofNat 16 j)).extractLsb' 8 8 = 0x00#8 then []
                      else [(rawRead s (readReg s 0 + BitVec.ofNat 16 j)).extractLsb' 8 8])))

/-- R189: HALT writes its message and leaves the engine HALTED for good; pc and R7 hold the address after it, the
console is restored, and nothing else changes. That later steps of a HALTED machine answer the same state is the model's
form of 'no step leaves HALTED' (notes/assumptions/13.md, DESIGN CHOICE). Its vector is the first clause. -/
def Obligations.HaltEndsTheRun : Prop :=
  (∀ w : Word, opcodeOf w = 0xF#4 → w.extractLsb' 0 8 = 0x25#8 → decode w = .halt)
    ∧ (∀ s : State, ∃ t, exec .halt s = .next t ∧ t.run = .halted ∧ readReg t 7 = s.pc ∧ t.pc = s.pc ∧ t.cond = s.cond
        ∧ sameRegsBut [7] s t ∧ sameMemory s t
        ∧ t.console = { s.console with out := s.console.out ++ s.params.haltMessage, mode := .prior }
        ∧ t.service = s.service ∧ t.stop = s.stop ∧ t.params = s.params ∧ ∀ k, core.run k t = .next t)

/-- R190: TRAP with a vector outside 0x20 to 0x25 raises UnrecognizedTrap with its address and its word. R213 lets a
claim assume nothing of the final state: that the fault shows the output so far and the restored console mode, and
nothing else, is the model's clause (notes/assumptions/14.md, DEDUCED). -/
def Obligations.UnrecognizedTrapFaults : Prop :=
  ∀ (low4 : BitVec 4) (vect8 : BitVec 8) (s : State), (vect8 < 0x20#8 ∨ 0x25#8 < vect8) →
    exec (.trap low4 vect8) s
      = .fault (.unrecognizedTrap (s.pc - 1#16) (0xF000#16 ||| low4.setWidth 16 <<< 8 ||| vect8.setWidth 16) s.console.out .prior)

/-- R192, R193, R195: the reserved opcodes raise IllegalInstruction with the word and its address, and the caller
sees pc at that address and the state otherwise as it was, the console restored (R213). That the fault carries that
state is the model's form (notes/assumptions/14.md, DEDUCED). Their encodings are the first two clauses. -/
def Obligations.ReservedOpcodesFault : Prop :=
  (∀ w : Word, opcodeOf w = 0x8#4 → decode w = .res8 (w.extractLsb' 0 12))
    ∧ (∀ w : Word, opcodeOf w = 0xD#4 → decode w = .res13 (w.extractLsb' 0 12))
    ∧ (∀ (low12 : BitVec 12) (s : State),
        exec (.res8 low12) s = .fault (.illegalInstruction (s.pc - 1#16) (0x8000#16 ||| low12.setWidth 16)
            { s with pc := s.pc - 1#16, console := { s.console with mode := .prior } })
          ∧ exec (.res13 low12) s = .fault (.illegalInstruction (s.pc - 1#16) (0xD000#16 ||| low12.setWidth 16)
            { s with pc := s.pc - 1#16, console := { s.console with mode := .prior } }))

/-- R209: the next byte of `In` ends the wait: waiting and then receiving input gives what the service would have
given with that input there from the start. That a wait is a next state is the model's form (notes/assumptions/11.md,
DESIGN CHOICE). -/
def Obligations.DeliveryEndsTheWait : Prop :=
  ∀ (s w : State) (c : Byte) (rest : List Byte), s.ready → s.console.input = [] →
    (exec .getc s = .next w → step (hostDeliver (c :: rest) w) = exec .getc (hostDeliver (c :: rest) s))
    ∧ (exec .inChar s = .next w → step (hostDeliver (c :: rest) w) = exec .inChar (hostDeliver (c :: rest) s))

/-! ### The step -/

/-- R119, R162: a RUNNING machine with no service in progress reads the word at pc with `MemRead`, sets pc to the next
address, and runs the instruction the word decodes to; the fetch changes nothing else beyond what `MemRead` changes.
Where a host stop is to come in a later step, it has come one step nearer: the model's form of a stop
(notes/assumptions/15.md, DESIGN CHOICE). -/
def Obligations.StepRunsTheDecodedInstruction : Prop :=
  ∀ s : State, s.run = .running → s.service = none → ∀ ir s1, memRead s s.pc = (ir, s1) →
    (s.stop = none → step s = exec (decode ir) { s1 with pc := s.pc + 1#16 })
    ∧ ∀ k n, s.stop = some ⟨k + 1, n⟩ →
        step s = exec (decode ir) { s1 with pc := s.pc + 1#16, stop := some ⟨k, n⟩ }

/-- R163: a fetch from KBSR_ADDR runs the poll. If it finds a character the step raises IllegalInstruction(KBSR_ADDR,
0x8000) with the poll's effects standing; if not, the step is a no-op that moves past it. R163 is the spec's own
inference from R162, R135 and R158. What the fault shows is R195's and R213's, and that the fault carries it is the
model's form (notes/assumptions/14.md, DEDUCED). -/
def Obligations.FetchFromKbsrPolls : Prop :=
  ∀ s : State, s.ready → s.pc = s.params.kbsrAddr → s.params.kbsrAddr ≠ s.params.kbdrAddr →
    (pollAnswer s.console = true → step s = .fault (.illegalInstruction s.params.kbsrAddr 0x8000#16
        { kbsrPoll s with console := { (kbsrPoll s).console with mode := .prior } }))
    ∧ (pollAnswer s.console = false → step s = .next { kbsrPoll s with pc := s.params.kbsrAddr + 1#16 })

/-- R195: a step that raises IllegalInstruction(a, ir) shows the caller the state before the step, pc at the word and
the console restored; only the poll of a fetch from KBSR_ADDR stands. The model's form: the
fault carries that state (notes/assumptions/14.md, DEDUCED), but for the host's stop schedule in it, which is no state
of the machine (notes/assumptions/15.md, DESIGN CHOICE). -/
def Obligations.IllegalInstructionIsPrecise : Prop :=
  ∀ (s : State) (a ir : Word) (f : State), step s = .fault (.illegalInstruction a ir f) →
    a = s.pc
      ∧ (s.pc ≠ s.params.kbsrAddr → ir = rawRead s s.pc
          ∧ f = { s with stop := f.stop, console := { s.console with mode := .prior } })
      ∧ (s.pc = s.params.kbsrAddr → ir = rawRead (kbsrPoll s) s.pc
          ∧ f = { kbsrPoll s with stop := f.stop, console := { (kbsrPoll s).console with mode := .prior } })

/-- R128: no step leaves HALTED, where nothing changes any more, and only TRAP HALT changes RUNNING to HALTED: a step
that does so fetched a word with opcode 0xF and vector 0x25. That a step of a HALTED machine answers the same state is
the model's form of 'no step leaves HALTED' (notes/assumptions/13.md, DESIGN CHOICE). -/
def Obligations.HaltedIsFinalAndOnlyTrapHaltHalts : Prop :=
  (∀ s : State, s.run = .halted → ∀ k, core.run k s = .next s)
    ∧ ∀ s t : State, s.run = .running → step s = .next t → t.run = .halted →
      s.service = none ∧ opcodeOf (fetch s).1 = 0xF#4 ∧ vect8Of (fetch s).1 = 0x25#8

/-- R197: a stop request that lands in the coming step ends the run of a RUNNING machine whatever it was doing; the
output already written stands, and the console is restored. A HALTED machine has no run to stop. The model's form: the
request stands in State and lands after a number of steps and of the step's output bytes, of which at most `n` follow
what was written before (notes/assumptions/15.md, DESIGN CHOICE; 90_conflicts.md C7 lets a stop land among them), and a
step of a HALTED machine answers the same state, a request in it or not (notes/assumptions/13.md, DESIGN CHOICE). -/
def Obligations.HostStopEndsTheRun : Prop :=
  ∀ (s : State) (n : Nat),
    (s.run = .running → ∃ more, more.length ≤ n
      ∧ step (hostStop 0 n s) = .fault (.interrupt (s.console.out ++ more) .prior)
      ∧ ∀ t, advance (hostStop 0 n s) = .next t → (s.console.out ++ more).IsPrefix t.console.out)
    ∧ (s.run = .halted → ∀ k, step (hostStop k n s) = .next (hostStop k n s))

/-! ### Which instructions write what -/

/-- R118: an instruction writes no general register but those the table of R118 gives it. -/
def Obligations.OnlyListedRegistersAreWritten : Prop :=
  ∀ (i : Instr) (s t : State), exec i s = .next t → sameRegsBut (regsWritten i) s t

/-- R123: an instruction that is not in the list of R123 leaves the flag unchanged. -/
def Obligations.OnlyListedInstructionsSetTheFlag : Prop :=
  ∀ (i : Instr) (s t : State), exec i s = .next t → writesCond i = false → t.cond = s.cond

/-- R120: an instruction that is not in the list of R120 leaves pc at the incremented value. -/
def Obligations.OnlyListedInstructionsChangePc : Prop :=
  ∀ (i : Instr) (s t : State), exec i s = .next t → writesPc i = false → t.pc = s.pc

/-- R138: an instruction changes no word of memory but the one it stores to, and, if it reads KBSR_ADDR with
`MemRead`, the two device words. -/
def Obligations.OnlyListedAccessesChangeMemory : Prop :=
  ∀ (i : Instr) (s t : State), exec i s = .next t → ∀ a : Word, memStore s i ≠ some a →
    (s.params.kbsrAddr ∈ memReads s i → a ≠ s.params.kbsrAddr ∧ a ≠ s.params.kbdrAddr) → rawRead t a = rawRead s a

/-! ### Invariants -/

/-- The invariant holds right after reset. -/
def Obligations.ResetMeetsTheInvariant : Prop := State.reset.inv = true

/-- The invariant holds after every boot with parameters whose device addresses differ (R110). -/
def Obligations.BootMeetsTheInvariant : Prop :=
  ∀ (p : Params) (input : List Byte) (draws : List Bool) (image : Option (List Byte)) (s : State),
    p.kbsrAddr ≠ p.kbdrAddr → boot p input draws image = .next s → s.inv = true

/-- Every step keeps the invariant: memory stays canonical, the device addresses differ, the console is in the run's
mode exactly while RUNNING, and a HALTED engine has no service in progress. The
canonical form, the service and the mode as fields are the model's (notes/assumptions/1.md, 11.md and 26.md). -/
def Obligations.EveryStepKeepsTheInvariant : Prop :=
  ∀ s t : State, s.inv = true → step s = .next t → t.inv = true

/-- R197, R205, R110: over any run the output only grows, the input is only consumed from its front, and the
parameters stay. -/
def Obligations.RunsOnlyExtendOutputAndConsumeInput : Prop :=
  ∀ (k : Nat) (s t : State), runsTo k s t →
    s.console.out.IsPrefix t.console.out ∧ t.console.input.IsSuffix s.console.input ∧ t.params = s.params

/-! ### Reset, boot and the image -/

/-- R132: pc, flag, engine state and registers at the first fetch after a boot, for every GPR_INIT; R144 and R145: the
image in memory; R210: the console in the run's mode. The model's own fields are the model's choice: no stop to come
(notes/assumptions/15.md, DESIGN CHOICE), no service in progress (notes/assumptions/11.md, DESIGN CHOICE), the input
and the draws the boot was given (notes/assumptions/10.md and 9.md, DESIGN CHOICE) with the poll counter 0 (9.md), and
the mode as a field (notes/assumptions/26.md, DEDUCED). -/
def Obligations.StateAtTheFirstFetch : Prop :=
  ∀ (p : Params) (input : List Byte) (draws : List Bool) (b0 b1 : Byte) (bytes : List Byte),
    ∃ s, boot p input draws (some (b0 :: b1 :: bytes)) = .next s ∧ s.pc = 0x3000#16 ∧ s.cond = .zero
      ∧ s.run = .running ∧ s.service = none ∧ s.stop = none ∧ s.params = p ∧ s.console = ⟨input, draws, 0, [], .raw⟩
      ∧ (∀ r : Reg, readReg s r = p.gprInit[r.val])
      ∧ ∀ a : Word, rawRead s a
          = if a.toNat < 0xFFFF ∧ (b0 ++ b1 : Word).toNat ≤ a.toNat
            then (wordsOfBytes bytes).getD (a.toNat - (b0 ++ b1 : Word).toNat) 0x0000#16 else 0x0000#16

/-- R132: `State.reset` has pc 0x3000, the flag ZERO, RUNNING and every word of memory 0x0000. The rest is the model's
choice and no value of R132: every general register 0 (notes/assumptions/5.md), no input (10.md), no draw scheduled and
the poll counter 0 (9.md), no service in progress (11.md) and no stop to come (15.md), all DESIGN CHOICE; and the
console's mode as a field, `save_mode()` issued (26.md, DEDUCED, after R210). -/
def Obligations.ResetState : Prop :=
  State.reset.pc = 0x3000#16 ∧ State.reset.cond = .zero ∧ State.reset.run = .running ∧ State.reset.service = none
    ∧ State.reset.stop = none ∧ State.reset.console = ⟨[], [], 0, [], .raw⟩
    ∧ (∀ r : Reg, readReg State.reset r = 0x0000#16) ∧ ∀ a : Word, rawRead State.reset a = 0x0000#16

/-- R145: the load puts word i at origin + i for the first `0xFFFF - origin` words and changes no other word; address
0xFFFF is never loaded. -/
def Obligations.ImageLoadPlacesTheWords : Prop :=
  ∀ (m : Memory) (origin : Word) (words : List Word) (a : Word),
    (loadImage m origin words).read a.toNat
      = if origin.toNat ≤ a.toNat ∧ a.toNat - origin.toNat < min words.length (0xFFFF - origin.toNat)
        then words.getD (a.toNat - origin.toNat) 0x0000#16 else m.read a.toNat

/-- R144, R196: an image that is missing or has fewer than 2 bytes is a StartupError; every other image boots. -/
def Obligations.StartupErrorExactlyWithoutAnOrigin : Prop :=
  ∀ (p : Params) (input : List Byte) (draws : List Bool),
    boot p input draws none = .fault (.startupError .unreadable)
      ∧ ∀ bytes : List Byte,
          (bytes.length < 2 → boot p input draws (some bytes) = .fault (.startupError .noOrigin))
            ∧ (2 ≤ bytes.length → ∃ s, boot p input draws (some bytes) = .next s)
end

