-- ==== Sys2Proof/Laws/Encode.lean ====
section
/-! SUPPORT. The fields of a packed word: each accessor of the decoder gives back the field the encoder placed. -/

namespace Sys2Proof

@[simp] theorem regBits_toFin (r : Reg) : (regBits r).toFin = r := rfl
@[simp] theorem regBits_toFin' (v : BitVec 3) : regBits v.toFin = v := rfl

@[simp] theorem opcodeOf_pack336 (op : BitVec 4) (a b : BitVec 3) (c : BitVec 6) :
    opcodeOf (pack336 op a b c) = op := by
  simp only [opcodeOf, pack336, place]; ext i hi
  interval_cases i <;> simp
@[simp] theorem opcodeOf_pack39 (op : BitVec 4) (a : BitVec 3) (c : BitVec 9) :
    opcodeOf (pack39 op a c) = op := by
  simp only [opcodeOf, pack39, place]; ext i hi
  interval_cases i <;> simp
@[simp] theorem opcodeOf_pack111 (op : BitVec 4) (m : BitVec 1) (c : BitVec 11) :
    opcodeOf (pack111 op m c) = op := by
  simp only [opcodeOf, pack111, place]; ext i hi
  interval_cases i <;> simp
@[simp] theorem opcodeOf_pack48 (op a : BitVec 4) (c : BitVec 8) :
    opcodeOf (pack48 op a c) = op := by
  simp only [opcodeOf, pack48, place]; ext i hi
  interval_cases i <;> simp
@[simp] theorem opcodeOf_pack12 (op : BitVec 4) (c : BitVec 12) :
    opcodeOf (pack12 op c) = op := by
  simp only [opcodeOf, pack12, place]; ext i hi
  interval_cases i <;> simp

@[simp] theorem reg11_pack336 (op : BitVec 4) (a b : BitVec 3) (c : BitVec 6) :
    reg11 (pack336 op a b c) = a.toFin := by
  refine congrArg BitVec.toFin ?_
  simp only [pack336, place]; ext i hi
  interval_cases i <;> simp
@[simp] theorem reg8_pack336 (op : BitVec 4) (a b : BitVec 3) (c : BitVec 6) :
    reg8 (pack336 op a b c) = b.toFin := by
  refine congrArg BitVec.toFin ?_
  simp only [pack336, place]; ext i hi
  interval_cases i <;> simp
@[simp] theorem off6Of_pack336 (op : BitVec 4) (a b : BitVec 3) (c : BitVec 6) :
    off6Of (pack336 op a b c) = c := by
  simp only [off6Of, pack336, place]; ext i hi
  interval_cases i <;> simp
@[simp] theorem reg11_pack39 (op : BitVec 4) (a : BitVec 3) (c : BitVec 9) :
    reg11 (pack39 op a c) = a.toFin := by
  refine congrArg BitVec.toFin ?_
  simp only [pack39, place]; ext i hi
  interval_cases i <;> simp
@[simp] theorem nzpOf_pack39 (op : BitVec 4) (a : BitVec 3) (c : BitVec 9) :
    nzpOf (pack39 op a c) = a := by
  simp only [nzpOf, pack39, place]; ext i hi
  interval_cases i <;> simp
@[simp] theorem off9Of_pack39 (op : BitVec 4) (a : BitVec 3) (c : BitVec 9) :
    off9Of (pack39 op a c) = c := by
  simp only [off9Of, pack39, place]; ext i hi
  interval_cases i <;> simp
@[simp] theorem off11Of_pack111 (op : BitVec 4) (m : BitVec 1) (c : BitVec 11) :
    off11Of (pack111 op m c) = c := by
  simp only [off11Of, pack111, place]; ext i hi
  interval_cases i <;> simp
@[simp] theorem vect8Of_pack48 (op a : BitVec 4) (c : BitVec 8) :
    vect8Of (pack48 op a c) = c := by
  simp only [vect8Of, pack48, place]; ext i hi
  interval_cases i <;> simp
@[simp] theorem low4Of_pack48 (op a : BitVec 4) (c : BitVec 8) :
    low4Of (pack48 op a c) = a := by
  simp only [low4Of, pack48, place]; ext i hi
  interval_cases i <;> simp
@[simp] theorem low12Of_pack12 (op : BitVec 4) (c : BitVec 12) :
    low12Of (pack12 op c) = c := by
  simp only [low12Of, pack12, place]; ext i hi
  interval_cases i <;> simp

@[simp] theorem modeJsr_pack111 (op : BitVec 4) (m : BitVec 1) (c : BitVec 11) :
    modeJsr (pack111 op m c) = m.getLsbD 0 := by
  simp [modeJsr, pack111, place]
@[simp] theorem modeJsr_pack336_zero (op b) (c) : modeJsr (pack336 op 0#3 b c) = false := by
  simp [modeJsr, pack336, place]
@[simp] theorem modeImm_lowReg (op a b) (r : Reg) : modeImm (pack336 op a b (lowReg r)) = false := by
  simp [modeImm, pack336, place, lowReg]
@[simp] theorem modeImm_lowImm (op a b) (v : BitVec 5) : modeImm (pack336 op a b (lowImm v)) = true := by
  simp [modeImm, pack336, place, lowImm]
@[simp] theorem reg2_lowReg (op a b) (r : Reg) : reg2 (pack336 op a b (lowReg r)) = r := by
  refine congrArg BitVec.toFin (a₂ := regBits r) ?_
  simp only [pack336, place, lowReg]; ext i hi
  interval_cases i <;> simp
@[simp] theorem imm5Of_lowImm (op a b) (v : BitVec 5) : imm5Of (pack336 op a b (lowImm v)) = v := by
  simp only [imm5Of, pack336, place, lowImm]; ext i hi
  interval_cases i <;> simp

end Sys2Proof
end

