-- ==== Sys2Proof/Laws/Environment.lean ====
section
/-! SUPPORT. What the image load and the host's acts do, one lemma each. -/

namespace Sys2Proof.Machine

@[simp] theorem storeWords_nil (m : Memory) (a : Nat) : storeWords m a [] = m := rfl

@[simp] theorem storeWords_cons (m : Memory) (a : Nat) (w : Word) (ws : List Word) :
    storeWords m a (w :: ws) = storeWords (m.write a w) (a + 1) ws := rfl

/-- Words stored inside the address space keep the canonical form. -/
theorem storeWords_wf (ws : List Word) {m : Memory} {a : Nat} (h : m.wf = true) (hl : a + ws.length ≤ 65536) :
    (storeWords m a ws).wf = true := by
  induction ws generalizing m a with
  | nil => exact h
  | cons w ws ih =>
    simp only [List.length_cons] at hl
    exact ih (Memory.wf_write h (by omega) w) (by omega)

/-- The image load keeps the canonical form (R145). -/
theorem loadImage_wf {m : Memory} (h : m.wf = true) (origin : Word) (words : List Word) :
    (loadImage m origin words).wf = true := by
  refine storeWords_wf _ h ?_
  have := origin.isLt
  simp only [List.length_take]
  omega

@[simp] theorem hostStop_stop (k n : Nat) (s : State) : (hostStop k n s).stop = some ⟨k, n⟩ := rfl
@[simp] theorem hostDeliver_input (bs : List Byte) (s : State) :
    (hostDeliver bs s).console.input = s.console.input ++ bs := rfl

end Sys2Proof.Machine
end

