-- ==== Sys2Proof/Laws/State.lean ====
section
/-! SUPPORT. One lemma per field per setter of `State`, and the same for the operations that write one field: each
true by `rfl` (or by its lemma before), so that no later proof unfolds a record update. -/

namespace Sys2Proof.Machine

/-! `setRegs` -/

@[simp] theorem setRegs_regs (s : State) (v : Vector Word 8) : (s.setRegs v).regs = v := rfl
@[simp] theorem setRegs_pc (s : State) (v : Vector Word 8) : (s.setRegs v).pc = s.pc := rfl
@[simp] theorem setRegs_cond (s : State) (v : Vector Word 8) : (s.setRegs v).cond = s.cond := rfl
@[simp] theorem setRegs_run (s : State) (v : Vector Word 8) : (s.setRegs v).run = s.run := rfl
@[simp] theorem setRegs_mem (s : State) (v : Vector Word 8) : (s.setRegs v).mem = s.mem := rfl
@[simp] theorem setRegs_service (s : State) (v : Vector Word 8) : (s.setRegs v).service = s.service := rfl
@[simp] theorem setRegs_console (s : State) (v : Vector Word 8) : (s.setRegs v).console = s.console := rfl
@[simp] theorem setRegs_stop (s : State) (v : Vector Word 8) : (s.setRegs v).stop = s.stop := rfl
@[simp] theorem setRegs_params (s : State) (v : Vector Word 8) : (s.setRegs v).params = s.params := rfl

/-! `setPc` -/

@[simp] theorem setPc_regs (s : State) (v : Word) : (s.setPc v).regs = s.regs := rfl
@[simp] theorem setPc_pc (s : State) (v : Word) : (s.setPc v).pc = v := rfl
@[simp] theorem setPc_cond (s : State) (v : Word) : (s.setPc v).cond = s.cond := rfl
@[simp] theorem setPc_run (s : State) (v : Word) : (s.setPc v).run = s.run := rfl
@[simp] theorem setPc_mem (s : State) (v : Word) : (s.setPc v).mem = s.mem := rfl
@[simp] theorem setPc_service (s : State) (v : Word) : (s.setPc v).service = s.service := rfl
@[simp] theorem setPc_console (s : State) (v : Word) : (s.setPc v).console = s.console := rfl
@[simp] theorem setPc_stop (s : State) (v : Word) : (s.setPc v).stop = s.stop := rfl
@[simp] theorem setPc_params (s : State) (v : Word) : (s.setPc v).params = s.params := rfl

/-! `setCond` -/

@[simp] theorem setCond_regs (s : State) (v : Cond) : (s.setCond v).regs = s.regs := rfl
@[simp] theorem setCond_pc (s : State) (v : Cond) : (s.setCond v).pc = s.pc := rfl
@[simp] theorem setCond_cond (s : State) (v : Cond) : (s.setCond v).cond = v := rfl
@[simp] theorem setCond_run (s : State) (v : Cond) : (s.setCond v).run = s.run := rfl
@[simp] theorem setCond_mem (s : State) (v : Cond) : (s.setCond v).mem = s.mem := rfl
@[simp] theorem setCond_service (s : State) (v : Cond) : (s.setCond v).service = s.service := rfl
@[simp] theorem setCond_console (s : State) (v : Cond) : (s.setCond v).console = s.console := rfl
@[simp] theorem setCond_stop (s : State) (v : Cond) : (s.setCond v).stop = s.stop := rfl
@[simp] theorem setCond_params (s : State) (v : Cond) : (s.setCond v).params = s.params := rfl

/-! `setRun` -/

@[simp] theorem setRun_regs (s : State) (v : RunState) : (s.setRun v).regs = s.regs := rfl
@[simp] theorem setRun_pc (s : State) (v : RunState) : (s.setRun v).pc = s.pc := rfl
@[simp] theorem setRun_cond (s : State) (v : RunState) : (s.setRun v).cond = s.cond := rfl
@[simp] theorem setRun_run (s : State) (v : RunState) : (s.setRun v).run = v := rfl
@[simp] theorem setRun_mem (s : State) (v : RunState) : (s.setRun v).mem = s.mem := rfl
@[simp] theorem setRun_service (s : State) (v : RunState) : (s.setRun v).service = s.service := rfl
@[simp] theorem setRun_console (s : State) (v : RunState) : (s.setRun v).console = s.console := rfl
@[simp] theorem setRun_stop (s : State) (v : RunState) : (s.setRun v).stop = s.stop := rfl
@[simp] theorem setRun_params (s : State) (v : RunState) : (s.setRun v).params = s.params := rfl

/-! `setMem` -/

@[simp] theorem setMem_regs (s : State) (v : Memory) : (s.setMem v).regs = s.regs := rfl
@[simp] theorem setMem_pc (s : State) (v : Memory) : (s.setMem v).pc = s.pc := rfl
@[simp] theorem setMem_cond (s : State) (v : Memory) : (s.setMem v).cond = s.cond := rfl
@[simp] theorem setMem_run (s : State) (v : Memory) : (s.setMem v).run = s.run := rfl
@[simp] theorem setMem_mem (s : State) (v : Memory) : (s.setMem v).mem = v := rfl
@[simp] theorem setMem_service (s : State) (v : Memory) : (s.setMem v).service = s.service := rfl
@[simp] theorem setMem_console (s : State) (v : Memory) : (s.setMem v).console = s.console := rfl
@[simp] theorem setMem_stop (s : State) (v : Memory) : (s.setMem v).stop = s.stop := rfl
@[simp] theorem setMem_params (s : State) (v : Memory) : (s.setMem v).params = s.params := rfl

/-! `setService` -/

@[simp] theorem setService_regs (s : State) (v : Option Service) : (s.setService v).regs = s.regs := rfl
@[simp] theorem setService_pc (s : State) (v : Option Service) : (s.setService v).pc = s.pc := rfl
@[simp] theorem setService_cond (s : State) (v : Option Service) : (s.setService v).cond = s.cond := rfl
@[simp] theorem setService_run (s : State) (v : Option Service) : (s.setService v).run = s.run := rfl
@[simp] theorem setService_mem (s : State) (v : Option Service) : (s.setService v).mem = s.mem := rfl
@[simp] theorem setService_service (s : State) (v : Option Service) : (s.setService v).service = v := rfl
@[simp] theorem setService_console (s : State) (v : Option Service) : (s.setService v).console = s.console := rfl
@[simp] theorem setService_stop (s : State) (v : Option Service) : (s.setService v).stop = s.stop := rfl
@[simp] theorem setService_params (s : State) (v : Option Service) : (s.setService v).params = s.params := rfl

/-! `setConsole` -/

@[simp] theorem setConsole_regs (s : State) (v : Console) : (s.setConsole v).regs = s.regs := rfl
@[simp] theorem setConsole_pc (s : State) (v : Console) : (s.setConsole v).pc = s.pc := rfl
@[simp] theorem setConsole_cond (s : State) (v : Console) : (s.setConsole v).cond = s.cond := rfl
@[simp] theorem setConsole_run (s : State) (v : Console) : (s.setConsole v).run = s.run := rfl
@[simp] theorem setConsole_mem (s : State) (v : Console) : (s.setConsole v).mem = s.mem := rfl
@[simp] theorem setConsole_service (s : State) (v : Console) : (s.setConsole v).service = s.service := rfl
@[simp] theorem setConsole_console (s : State) (v : Console) : (s.setConsole v).console = v := rfl
@[simp] theorem setConsole_stop (s : State) (v : Console) : (s.setConsole v).stop = s.stop := rfl
@[simp] theorem setConsole_params (s : State) (v : Console) : (s.setConsole v).params = s.params := rfl

/-! `setStop` -/

@[simp] theorem setStop_regs (s : State) (v : Option StopRequest) : (s.setStop v).regs = s.regs := rfl
@[simp] theorem setStop_pc (s : State) (v : Option StopRequest) : (s.setStop v).pc = s.pc := rfl
@[simp] theorem setStop_cond (s : State) (v : Option StopRequest) : (s.setStop v).cond = s.cond := rfl
@[simp] theorem setStop_run (s : State) (v : Option StopRequest) : (s.setStop v).run = s.run := rfl
@[simp] theorem setStop_mem (s : State) (v : Option StopRequest) : (s.setStop v).mem = s.mem := rfl
@[simp] theorem setStop_service (s : State) (v : Option StopRequest) : (s.setStop v).service = s.service := rfl
@[simp] theorem setStop_console (s : State) (v : Option StopRequest) : (s.setStop v).console = s.console := rfl
@[simp] theorem setStop_stop (s : State) (v : Option StopRequest) : (s.setStop v).stop = v := rfl
@[simp] theorem setStop_params (s : State) (v : Option StopRequest) : (s.setStop v).params = s.params := rfl

/-! `writeReg` -/

@[simp] theorem writeReg_pc (s : State) (r : Reg) (v : Word) : (writeReg s r v).pc = s.pc := rfl
@[simp] theorem writeReg_cond (s : State) (r : Reg) (v : Word) : (writeReg s r v).cond = s.cond := rfl
@[simp] theorem writeReg_run (s : State) (r : Reg) (v : Word) : (writeReg s r v).run = s.run := rfl
@[simp] theorem writeReg_mem (s : State) (r : Reg) (v : Word) : (writeReg s r v).mem = s.mem := rfl
@[simp] theorem writeReg_service (s : State) (r : Reg) (v : Word) : (writeReg s r v).service = s.service := rfl
@[simp] theorem writeReg_console (s : State) (r : Reg) (v : Word) : (writeReg s r v).console = s.console := rfl
@[simp] theorem writeReg_stop (s : State) (r : Reg) (v : Word) : (writeReg s r v).stop = s.stop := rfl
@[simp] theorem writeReg_params (s : State) (r : Reg) (v : Word) : (writeReg s r v).params = s.params := rfl

/-! `setcc` -/

@[simp] theorem setcc_regs (s : State) (v : Word) : (setcc s v).regs = s.regs := rfl
@[simp] theorem setcc_pc (s : State) (v : Word) : (setcc s v).pc = s.pc := rfl
@[simp] theorem setcc_cond (s : State) (v : Word) : (setcc s v).cond = condOf v := rfl
@[simp] theorem setcc_run (s : State) (v : Word) : (setcc s v).run = s.run := rfl
@[simp] theorem setcc_mem (s : State) (v : Word) : (setcc s v).mem = s.mem := rfl
@[simp] theorem setcc_service (s : State) (v : Word) : (setcc s v).service = s.service := rfl
@[simp] theorem setcc_console (s : State) (v : Word) : (setcc s v).console = s.console := rfl
@[simp] theorem setcc_stop (s : State) (v : Word) : (setcc s v).stop = s.stop := rfl
@[simp] theorem setcc_params (s : State) (v : Word) : (setcc s v).params = s.params := rfl

/-! `writeResult` -/

@[simp] theorem writeResult_pc (s : State) (r : Reg) (v : Word) : (writeResult s r v).pc = s.pc := rfl
@[simp] theorem writeResult_cond (s : State) (r : Reg) (v : Word) : (writeResult s r v).cond = condOf v := rfl
@[simp] theorem writeResult_run (s : State) (r : Reg) (v : Word) : (writeResult s r v).run = s.run := rfl
@[simp] theorem writeResult_mem (s : State) (r : Reg) (v : Word) : (writeResult s r v).mem = s.mem := rfl
@[simp] theorem writeResult_service (s : State) (r : Reg) (v : Word) : (writeResult s r v).service = s.service := rfl
@[simp] theorem writeResult_console (s : State) (r : Reg) (v : Word) : (writeResult s r v).console = s.console := rfl
@[simp] theorem writeResult_stop (s : State) (r : Reg) (v : Word) : (writeResult s r v).stop = s.stop := rfl
@[simp] theorem writeResult_params (s : State) (r : Reg) (v : Word) : (writeResult s r v).params = s.params := rfl

/-! `memWrite` -/

@[simp] theorem memWrite_regs (s : State) (a v : Word) : (memWrite s a v).regs = s.regs := rfl
@[simp] theorem memWrite_pc (s : State) (a v : Word) : (memWrite s a v).pc = s.pc := rfl
@[simp] theorem memWrite_cond (s : State) (a v : Word) : (memWrite s a v).cond = s.cond := rfl
@[simp] theorem memWrite_run (s : State) (a v : Word) : (memWrite s a v).run = s.run := rfl
@[simp] theorem memWrite_mem (s : State) (a v : Word) : (memWrite s a v).mem = s.mem.write a.toNat v := rfl
@[simp] theorem memWrite_service (s : State) (a v : Word) : (memWrite s a v).service = s.service := rfl
@[simp] theorem memWrite_console (s : State) (a v : Word) : (memWrite s a v).console = s.console := rfl
@[simp] theorem memWrite_stop (s : State) (a v : Word) : (memWrite s a v).stop = s.stop := rfl
@[simp] theorem memWrite_params (s : State) (a v : Word) : (memWrite s a v).params = s.params := rfl

/-! `writeChars` -/

@[simp] theorem writeChars_regs (s : State) (bs : List Byte) : (writeChars s bs).regs = s.regs := rfl
@[simp] theorem writeChars_pc (s : State) (bs : List Byte) : (writeChars s bs).pc = s.pc := rfl
@[simp] theorem writeChars_cond (s : State) (bs : List Byte) : (writeChars s bs).cond = s.cond := rfl
@[simp] theorem writeChars_run (s : State) (bs : List Byte) : (writeChars s bs).run = s.run := rfl
@[simp] theorem writeChars_mem (s : State) (bs : List Byte) : (writeChars s bs).mem = s.mem := rfl
@[simp] theorem writeChars_service (s : State) (bs : List Byte) : (writeChars s bs).service = s.service := rfl
@[simp] theorem writeChars_console (s : State) (bs : List Byte) : (writeChars s bs).console = { s.console with out := s.console.out ++ bs } := rfl
@[simp] theorem writeChars_stop (s : State) (bs : List Byte) : (writeChars s bs).stop = s.stop := rfl
@[simp] theorem writeChars_params (s : State) (bs : List Byte) : (writeChars s bs).params = s.params := rfl

/-! `restoreMode` -/

@[simp] theorem restoreMode_regs (s : State) : (restoreMode s).regs = s.regs := rfl
@[simp] theorem restoreMode_pc (s : State) : (restoreMode s).pc = s.pc := rfl
@[simp] theorem restoreMode_cond (s : State) : (restoreMode s).cond = s.cond := rfl
@[simp] theorem restoreMode_run (s : State) : (restoreMode s).run = s.run := rfl
@[simp] theorem restoreMode_mem (s : State) : (restoreMode s).mem = s.mem := rfl
@[simp] theorem restoreMode_service (s : State) : (restoreMode s).service = s.service := rfl
@[simp] theorem restoreMode_console (s : State) : (restoreMode s).console = { s.console with mode := .prior } := rfl
@[simp] theorem restoreMode_stop (s : State) : (restoreMode s).stop = s.stop := rfl
@[simp] theorem restoreMode_params (s : State) : (restoreMode s).params = s.params := rfl

/-! `linkR7` -/

@[simp] theorem linkR7_pc (s : State) : (linkR7 s).pc = s.pc := rfl
@[simp] theorem linkR7_cond (s : State) : (linkR7 s).cond = s.cond := rfl
@[simp] theorem linkR7_run (s : State) : (linkR7 s).run = s.run := rfl
@[simp] theorem linkR7_mem (s : State) : (linkR7 s).mem = s.mem := rfl
@[simp] theorem linkR7_service (s : State) : (linkR7 s).service = s.service := rfl
@[simp] theorem linkR7_console (s : State) : (linkR7 s).console = s.console := rfl
@[simp] theorem linkR7_stop (s : State) : (linkR7 s).stop = s.stop := rfl
@[simp] theorem linkR7_params (s : State) : (linkR7 s).params = s.params := rfl

/-! `haltRun` -/

@[simp] theorem haltRun_regs (s : State) : (haltRun s).regs = s.regs := rfl
@[simp] theorem haltRun_pc (s : State) : (haltRun s).pc = s.pc := rfl
@[simp] theorem haltRun_cond (s : State) : (haltRun s).cond = s.cond := rfl
@[simp] theorem haltRun_run (s : State) : (haltRun s).run = .halted := rfl
@[simp] theorem haltRun_mem (s : State) : (haltRun s).mem = s.mem := rfl
@[simp] theorem haltRun_service (s : State) : (haltRun s).service = s.service := rfl
@[simp] theorem haltRun_console (s : State) : (haltRun s).console = { s.console with mode := .prior } := rfl
@[simp] theorem haltRun_stop (s : State) : (haltRun s).stop = s.stop := rfl
@[simp] theorem haltRun_params (s : State) : (haltRun s).params = s.params := rfl

end Sys2Proof.Machine
end

