-- ==== Sys2Proof/Laws/Ops.lean ====
section
/-! SUPPORT. One lemma per shared operation that says what it does, to be cited in place of its unfolding. -/

namespace Sys2Proof.Machine

/-! ### General registers -/

theorem readReg_writeReg (s : State) (r q : Reg) (v : Word) :
    readReg (writeReg s r v) q = if q = r then v else readReg s q := by
  simp [readReg, writeReg, Vector.getElem_set, Fin.ext_iff, eq_comm]

@[simp] theorem readReg_writeReg_same (s : State) (r : Reg) (v : Word) : readReg (writeReg s r v) r = v := by
  simp [readReg_writeReg]

theorem readReg_writeReg_other (s : State) {r q : Reg} (v : Word) (h : q ≠ r) :
    readReg (writeReg s r v) q = readReg s q := by
  simp [readReg_writeReg, h]

@[simp] theorem readReg_setPc (s : State) (v : Word) (r : Reg) : readReg (s.setPc v) r = readReg s r := rfl
@[simp] theorem readReg_setCond (s : State) (v : Cond) (r : Reg) : readReg (s.setCond v) r = readReg s r := rfl
@[simp] theorem readReg_setRun (s : State) (v : RunState) (r : Reg) : readReg (s.setRun v) r = readReg s r := rfl
@[simp] theorem readReg_setMem (s : State) (v : Memory) (r : Reg) : readReg (s.setMem v) r = readReg s r := rfl
@[simp] theorem readReg_setService (s : State) (v : Option Service) (r : Reg) :
    readReg (s.setService v) r = readReg s r := rfl
@[simp] theorem readReg_setConsole (s : State) (v : Console) (r : Reg) :
    readReg (s.setConsole v) r = readReg s r := rfl
@[simp] theorem readReg_setStop (s : State) (v : Option StopRequest) (r : Reg) : readReg (s.setStop v) r = readReg s r := rfl
@[simp] theorem readReg_setcc (s : State) (v : Word) (r : Reg) : readReg (setcc s v) r = readReg s r := rfl
@[simp] theorem readReg_memWrite (s : State) (a v : Word) (r : Reg) : readReg (memWrite s a v) r = readReg s r := rfl
@[simp] theorem readReg_writeChars (s : State) (bs : List Byte) (r : Reg) :
    readReg (writeChars s bs) r = readReg s r := rfl
@[simp] theorem readReg_restoreMode (s : State) (r : Reg) : readReg (restoreMode s) r = readReg s r := rfl
@[simp] theorem readReg_haltRun (s : State) (r : Reg) : readReg (haltRun s) r = readReg s r := rfl

theorem readReg_writeResult (s : State) (r q : Reg) (v : Word) :
    readReg (writeResult s r v) q = if q = r then v else readReg s q := readReg_writeReg s r q v

theorem readReg_linkR7 (s : State) (q : Reg) : readReg (linkR7 s) q = if q = 7 then s.pc else readReg s q :=
  readReg_writeReg s 7 q s.pc

/-! ### Memory -/

/-- A store changes its own word and no other (R136). -/
theorem rawRead_memWrite (s : State) (a b v : Word) :
    rawRead (memWrite s a v) b = if b = a then v else rawRead s b := by
  simp [rawRead, memWrite, Memory.read_write, BitVec.toNat_inj]

@[simp] theorem rawRead_memWrite_same (s : State) (a v : Word) : rawRead (memWrite s a v) a = v := by
  simp [rawRead_memWrite]

theorem rawRead_memWrite_other (s : State) {a b : Word} (v : Word) (h : b ≠ a) :
    rawRead (memWrite s a v) b = rawRead s b := by
  simp [rawRead_memWrite, h]

theorem rawRead_congr {s t : State} (h : t.mem = s.mem) (a : Word) : rawRead t a = rawRead s a := by
  simp [rawRead, h]

@[simp] theorem rawRead_setRegs (s : State) (v : Vector Word 8) (a : Word) : rawRead (s.setRegs v) a = rawRead s a := rfl
@[simp] theorem rawRead_setPc (s : State) (v : Word) (a : Word) : rawRead (s.setPc v) a = rawRead s a := rfl
@[simp] theorem rawRead_setCond (s : State) (v : Cond) (a : Word) : rawRead (s.setCond v) a = rawRead s a := rfl
@[simp] theorem rawRead_setRun (s : State) (v : RunState) (a : Word) : rawRead (s.setRun v) a = rawRead s a := rfl
@[simp] theorem rawRead_setService (s : State) (v : Option Service) (a : Word) :
    rawRead (s.setService v) a = rawRead s a := rfl
@[simp] theorem rawRead_setConsole (s : State) (v : Console) (a : Word) :
    rawRead (s.setConsole v) a = rawRead s a := rfl
@[simp] theorem rawRead_setStop (s : State) (v : Option StopRequest) (a : Word) : rawRead (s.setStop v) a = rawRead s a := rfl
@[simp] theorem rawRead_writeReg (s : State) (r : Reg) (v a : Word) : rawRead (writeReg s r v) a = rawRead s a := rfl
@[simp] theorem rawRead_setcc (s : State) (v a : Word) : rawRead (setcc s v) a = rawRead s a := rfl
@[simp] theorem rawRead_writeResult (s : State) (r : Reg) (v a : Word) :
    rawRead (writeResult s r v) a = rawRead s a := rfl
@[simp] theorem rawRead_writeChars (s : State) (bs : List Byte) (a : Word) :
    rawRead (writeChars s bs) a = rawRead s a := rfl
@[simp] theorem rawRead_restoreMode (s : State) (a : Word) : rawRead (restoreMode s) a = rawRead s a := rfl
@[simp] theorem rawRead_linkR7 (s : State) (a : Word) : rawRead (linkR7 s) a = rawRead s a := rfl
@[simp] theorem rawRead_haltRun (s : State) (a : Word) : rawRead (haltRun s) a = rawRead s a := rfl

theorem memWrite_wf {s : State} (h : s.mem.wf = true) (a v : Word) : (memWrite s a v).mem.wf = true :=
  Memory.wf_write h a.isLt v

/-! ### The flag (R121, R122) -/

@[simp] theorem condOf_zero : condOf 0x0000#16 = .zero := rfl

theorem condOf_negative {v : Word} (h : v.getLsbD 15 = true) : condOf v = .negative := by
  have : v ≠ 0x0000#16 := by rintro rfl; simp at h
  simp [condOf, this, h]

theorem condOf_positive {v : Word} (h0 : v ≠ 0x0000#16) (h : v.getLsbD 15 = false) : condOf v = .positive := by
  rw [condOf, if_neg h0, h]; rfl

/-! ### The console and the keyboard poll (R135, R205) -/

/-- What a poll does: the byte it finds, if it finds one, and the two device words. -/
theorem kbsrPoll_cases (s : State) :
    (∃ c rest, s.console.input = c :: rest ∧ pollAnswer s.console = true ∧ kbsrPoll s = pollFound s c) ∨
    (pollAnswer s.console = false ∧ kbsrPoll s = pollEmpty s) := by
  cases hi : s.console.input with
  | nil => exact .inr ⟨by simp [pollAnswer, hi], by simp [kbsrPoll, hi]⟩
  | cons c rest =>
    cases hp : pollAnswer s.console with
    | true => exact .inl ⟨c, rest, rfl, rfl, by simp [kbsrPoll, hi, hp]⟩
    | false => exact .inr ⟨rfl, by simp [kbsrPoll, hi, hp]⟩

@[simp] theorem kbsrPoll_regs (s : State) : (kbsrPoll s).regs = s.regs := by
  obtain ⟨c, _, -, -, h⟩ | ⟨-, h⟩ := kbsrPoll_cases s <;> rw [h] <;> rfl
@[simp] theorem kbsrPoll_pc (s : State) : (kbsrPoll s).pc = s.pc := by
  obtain ⟨c, _, -, -, h⟩ | ⟨-, h⟩ := kbsrPoll_cases s <;> rw [h] <;> rfl
@[simp] theorem kbsrPoll_cond (s : State) : (kbsrPoll s).cond = s.cond := by
  obtain ⟨c, _, -, -, h⟩ | ⟨-, h⟩ := kbsrPoll_cases s <;> rw [h] <;> rfl
@[simp] theorem kbsrPoll_run (s : State) : (kbsrPoll s).run = s.run := by
  obtain ⟨c, _, -, -, h⟩ | ⟨-, h⟩ := kbsrPoll_cases s <;> rw [h] <;> rfl
@[simp] theorem kbsrPoll_service (s : State) : (kbsrPoll s).service = s.service := by
  obtain ⟨c, _, -, -, h⟩ | ⟨-, h⟩ := kbsrPoll_cases s <;> rw [h] <;> rfl
@[simp] theorem kbsrPoll_stop (s : State) : (kbsrPoll s).stop = s.stop := by
  obtain ⟨c, _, -, -, h⟩ | ⟨-, h⟩ := kbsrPoll_cases s <;> rw [h] <;> rfl
@[simp] theorem kbsrPoll_params (s : State) : (kbsrPoll s).params = s.params := by
  obtain ⟨c, _, -, -, h⟩ | ⟨-, h⟩ := kbsrPoll_cases s <;> rw [h] <;> rfl
@[simp] theorem kbsrPoll_out (s : State) : (kbsrPoll s).console.out = s.console.out := by
  obtain ⟨c, _, -, -, h⟩ | ⟨-, h⟩ := kbsrPoll_cases s <;> rw [h] <;> rfl
@[simp] theorem kbsrPoll_mode (s : State) : (kbsrPoll s).console.mode = s.console.mode := by
  obtain ⟨c, _, -, -, h⟩ | ⟨-, h⟩ := kbsrPoll_cases s <;> rw [h] <;> rfl

theorem kbsrPoll_wf {s : State} (h : s.mem.wf = true) : (kbsrPoll s).mem.wf = true := by
  obtain ⟨c, _, -, -, e⟩ | ⟨-, e⟩ := kbsrPoll_cases s <;> rw [e]
  · exact memWrite_wf (memWrite_wf h _ _) _ _
  · exact memWrite_wf h _ _

/-! ### `MemRead` (R134) -/

theorem memReadState_kbsr {s : State} {a : Word} (h : a = s.params.kbsrAddr) : memReadState s a = kbsrPoll s := by
  simp [memReadState, h]

/-- A read of any address but KBSR_ADDR changes nothing. -/
theorem memReadState_plain {s : State} {a : Word} (h : a ≠ s.params.kbsrAddr) : memReadState s a = s := by
  simp [memReadState, h]

theorem memReadState_cases (s : State) (a : Word) :
    (a = s.params.kbsrAddr ∧ memReadState s a = kbsrPoll s) ∨ (a ≠ s.params.kbsrAddr ∧ memReadState s a = s) := by
  by_cases h : a = s.params.kbsrAddr
  · exact .inl ⟨h, memReadState_kbsr h⟩
  · exact .inr ⟨h, memReadState_plain h⟩

@[simp] theorem memRead_fst (s : State) (a : Word) : (memRead s a).1 = rawRead (memReadState s a) a := rfl
@[simp] theorem memRead_snd (s : State) (a : Word) : (memRead s a).2 = memReadState s a := rfl

@[simp] theorem memReadState_regs (s : State) (a : Word) : (memReadState s a).regs = s.regs := by
  obtain ⟨-, h⟩ | ⟨-, h⟩ := memReadState_cases s a <;> simp [h]
@[simp] theorem memReadState_pc (s : State) (a : Word) : (memReadState s a).pc = s.pc := by
  obtain ⟨-, h⟩ | ⟨-, h⟩ := memReadState_cases s a <;> simp [h]
@[simp] theorem memReadState_cond (s : State) (a : Word) : (memReadState s a).cond = s.cond := by
  obtain ⟨-, h⟩ | ⟨-, h⟩ := memReadState_cases s a <;> simp [h]
@[simp] theorem memReadState_run (s : State) (a : Word) : (memReadState s a).run = s.run := by
  obtain ⟨-, h⟩ | ⟨-, h⟩ := memReadState_cases s a <;> simp [h]
@[simp] theorem memReadState_service (s : State) (a : Word) : (memReadState s a).service = s.service := by
  obtain ⟨-, h⟩ | ⟨-, h⟩ := memReadState_cases s a <;> simp [h]
@[simp] theorem memReadState_stop (s : State) (a : Word) : (memReadState s a).stop = s.stop := by
  obtain ⟨-, h⟩ | ⟨-, h⟩ := memReadState_cases s a <;> simp [h]
@[simp] theorem memReadState_params (s : State) (a : Word) : (memReadState s a).params = s.params := by
  obtain ⟨-, h⟩ | ⟨-, h⟩ := memReadState_cases s a <;> simp [h]
@[simp] theorem memReadState_out (s : State) (a : Word) : (memReadState s a).console.out = s.console.out := by
  obtain ⟨-, h⟩ | ⟨-, h⟩ := memReadState_cases s a <;> simp [h]
@[simp] theorem memReadState_mode (s : State) (a : Word) : (memReadState s a).console.mode = s.console.mode := by
  obtain ⟨-, h⟩ | ⟨-, h⟩ := memReadState_cases s a <;> simp [h]
@[simp] theorem readReg_memReadState (s : State) (a : Word) (r : Reg) :
    readReg (memReadState s a) r = readReg s r := by simp [readReg]

theorem memReadState_wf {s : State} (h : s.mem.wf = true) (a : Word) : (memReadState s a).mem.wf = true := by
  obtain ⟨-, e⟩ | ⟨-, e⟩ := memReadState_cases s a <;> rw [e]
  · exact kbsrPoll_wf h
  · exact h

/-! ### The fetch (R119, R162) -/

@[simp] theorem fetch_fst (s : State) : (fetch s).1 = rawRead (memReadState s s.pc) s.pc := rfl
theorem fetch_snd (s : State) : (fetch s).2 = (memReadState s s.pc).setPc (s.pc + 1#16) := by simp [fetch]
@[simp] theorem fetch_pc (s : State) : (fetch s).2.pc = s.pc + 1#16 := by simp [fetch]
@[simp] theorem instrAddr_fetch (s : State) : instrAddr (fetch s).2 = s.pc := by simp [instrAddr]

/-! ### Results and transfers -/

/-- What a result written to a destination changes, and that it changes nothing else. -/
theorem resultIn_writeResult (s : State) (d : Reg) (v : Word) : resultIn d v s (writeResult s d v) := by
  refine ⟨by simp [readReg_writeResult], rfl, fun r h => ?_, rfl, fun _ => rfl, rfl, rfl, rfl, rfl, rfl⟩
  rw [readReg_writeResult, if_neg (by simpa using h)]

theorem transferTo_setPc (s : State) (target : Word) : transferTo target none s (s.setPc target) :=
  ⟨rfl, by simp, fun _ _ => rfl, rfl, fun _ => rfl, rfl, rfl, rfl, rfl, rfl⟩

theorem transferTo_link (s : State) (target : Word) :
    transferTo target (some s.pc) s ((linkR7 s).setPc target) := by
  refine ⟨rfl, by simp [readReg_linkR7], fun r h => ?_, rfl, fun _ => rfl, rfl, rfl, rfl, rfl, rfl⟩
  rw [readReg_setPc, readReg_linkR7, if_neg (by simpa using h)]

/-! ### The trap services -/

theorem putsScan_end {m : Memory} {n : Nat} {a : Word} (h : m.read a.toNat = 0x0000#16) :
    putsScan m (n + 1) a = ([], true) := by simp [putsScan, h]

theorem putsScan_more {m : Memory} {n : Nat} {a : Word} (h : m.read a.toNat ≠ 0x0000#16) :
    putsScan m (n + 1) a
      = (lowByte (m.read a.toNat) :: (putsScan m n (a + 1#16)).1, (putsScan m n (a + 1#16)).2) := by
  rw [putsScan, if_neg h]

theorem putspScan_end {m : Memory} {n : Nat} {a : Word} (h : lowByte (m.read a.toNat) = 0x00#8) :
    putspScan m (n + 1) a = ([], true) := by simp [putspScan, h]

theorem putspScan_more {m : Memory} {n : Nat} {a : Word} (h : lowByte (m.read a.toNat) ≠ 0x00#8) :
    putspScan m (n + 1) a
      = (putspBytes (m.read a.toNat) ++ (putspScan m n (a + 1#16)).1, (putspScan m n (a + 1#16)).2) := by
  rw [putspScan, if_neg h]

/-- The addresses a string routine reads: the k-th word from the next address is the (k+1)-th from this one. -/
theorem next_add_ofNat (a : Word) (k : Nat) : a + 1#16 + BitVec.ofNat 16 k = a + BitVec.ofNat 16 (k + 1) := by
  apply BitVec.eq_of_toNat_eq; simp; omega

/-- With no zero word in memory the scan of PUTS gives the low byte of each word it reads and finds no end. -/
theorem putsScan_never {m : Memory} (h : ∀ a : Word, m.read a.toNat ≠ 0x0000#16) (n : Nat) (a : Word) :
    putsScan m n a = ((List.range n).map fun k => lowByte (m.read (a + BitVec.ofNat 16 k).toNat), false) := by
  induction n generalizing a with
  | zero => rfl
  | succ n ih =>
    rw [putsScan_more (h a), ih]
    simp [List.range_succ_eq_map, next_add_ofNat, Function.comp_def, Nat.mod_eq_of_lt a.isLt]

/-- With no zero low byte in memory the scan of PUTSP gives the bytes of each word it reads and finds no end. -/
theorem putspScan_never {m : Memory} (h : ∀ a : Word, lowByte (m.read a.toNat) ≠ 0x00#8) (n : Nat) (a : Word) :
    putspScan m n a = ((List.range n).flatMap fun k => putspBytes (m.read (a + BitVec.ofNat 16 k).toNat), false) := by
  induction n generalizing a with
  | zero => rfl
  | succ n ih =>
    rw [putspScan_more (h a), ih]
    simp [List.range_succ_eq_map, next_add_ofNat, List.flatMap_map, Nat.mod_eq_of_lt a.isLt]

/-- GETC waits with no byte left and completes with one. -/
theorem serviceGetc_cases (s : State) :
    (s.console.input = [] ∧ serviceGetc s = s.setService (some .getc)) ∨
    (∃ c rest, s.console.input = c :: rest ∧
      serviceGetc s = writeResult (s.setConsole (afterRead s.console)) 0 (zext8 c)) := by
  cases h : s.console.input with
  | nil => exact .inl ⟨rfl, by simp [serviceGetc, h]⟩
  | cons c rest => exact .inr ⟨c, rest, rfl, by simp [serviceGetc, h]⟩

/-- IN, from its read on, waits with no byte left, and echoes and completes with one. -/
theorem serviceInRead_cases (s : State) :
    (s.console.input = [] ∧ serviceInRead s = s.setService (some .inChar)) ∨
    (∃ c rest, s.console.input = c :: rest ∧
      serviceInRead s = writeResult (writeChars (s.setConsole (afterRead s.console)) [c]) 0 (zext8 c)) := by
  cases h : s.console.input with
  | nil => exact .inl ⟨rfl, by simp [serviceInRead, h]⟩
  | cons c rest => exact .inr ⟨c, rest, rfl, by simp [serviceInRead, h]⟩

end Sys2Proof.Machine
end

