-- ==== Sys2Proof/Laws/PerInstr.lean ====
section
/-! SUPPORT. Statements about every instruction, one lemma per constructor (LAWS.json, "per_instruction"). -/

namespace Sys2Proof.Laws.EncodesItsRow

/-- The word the encoder writes has the fixed bits of the instruction's row of the opcode table (R154). -/
def Statement (i : Instr) : Prop := i.row.admits (encode i) = true

/-- The fixed bits of each packing that the rows of the table mask. -/
theorem pack336_opcode (op : BitVec 4) (a b : BitVec 3) (c : BitVec 6) : pack336 op a b c &&& 0xF000#16 = place op 12 := by
  simp only [pack336, place]; ext i hi
  interval_cases i <;> simp

theorem pack336_mode0 (op : BitVec 4) (a b : BitVec 3) (c : BitVec 6) (h : c.getLsbD 5 = false) :
    pack336 op a b c &&& 0xF020#16 = place op 12 := by
  simp at h
  simp only [pack336, place]; ext i hi
  interval_cases i <;> simp [h]

theorem pack336_mode1 (op : BitVec 4) (a b : BitVec 3) (c : BitVec 6) (h : c.getLsbD 5 = true) :
    pack336 op a b c &&& 0xF020#16 = place op 12 ||| 0x0020#16 := by
  simp at h
  simp only [pack336, place]; ext i hi
  interval_cases i <;> simp [h]

theorem pack336_jsrr (op : BitVec 4) (b : BitVec 3) (c : BitVec 6) :
    pack336 op 0#3 b c &&& 0xF800#16 = place op 12 := by
  have h : place (0#3) 9 = 0#16 := rfl
  rw [pack336, h, BitVec.or_zero]
  simp only [place]; ext i hi
  interval_cases i <;> simp

theorem pack39_opcode (op : BitVec 4) (a : BitVec 3) (c : BitVec 9) : pack39 op a c &&& 0xF000#16 = place op 12 := by
  simp only [pack39, place]; ext i hi
  interval_cases i <;> simp

theorem pack39_nzp (op : BitVec 4) (c : BitVec 9) : pack39 op 0#3 c &&& 0xFE00#16 = place op 12 := by
  have h : place (0#3) 9 = 0#16 := rfl
  rw [pack39, h, BitVec.or_zero]
  simp only [place]; ext i hi
  interval_cases i <;> simp

theorem pack111_mode (op : BitVec 4) (c : BitVec 11) : pack111 op 1#1 c &&& 0xF800#16 = place op 12 ||| 0x0800#16 := by
  simp only [pack111, place]; ext i hi
  interval_cases i <;> simp

theorem pack48_opcode (op a : BitVec 4) (c : BitVec 8) : pack48 op a c &&& 0xF000#16 = place op 12 := by
  simp only [pack48, place]; ext i hi
  interval_cases i <;> simp

theorem pack12_opcode (op : BitVec 4) (c : BitVec 12) : pack12 op c &&& 0xF000#16 = place op 12 := by
  simp only [pack12, place]; ext i hi
  interval_cases i <;> simp

theorem lowReg_mode (r : Reg) : (lowReg r).getLsbD 5 = false := by simp [lowReg]
theorem lowImm_mode (v : BitVec 5) : (lowImm v).getLsbD 5 = true := by simp [lowImm]

theorem addReg (dr sr1 sr2 : Reg) : Statement (.addReg dr sr1 sr2) := by
  simp only [Statement, Row.admits, Instr.row, encode, pack336_mode0, lowReg_mode]; decide

theorem addImm (dr sr1 : Reg) (imm5 : BitVec 5) : Statement (.addImm dr sr1 imm5) := by
  simp only [Statement, Row.admits, Instr.row, encode, pack336_mode1, lowImm_mode]; decide

theorem andReg (dr sr1 sr2 : Reg) : Statement (.andReg dr sr1 sr2) := by
  simp only [Statement, Row.admits, Instr.row, encode, pack336_mode0, lowReg_mode]; decide

theorem andImm (dr sr1 : Reg) (imm5 : BitVec 5) : Statement (.andImm dr sr1 imm5) := by
  simp only [Statement, Row.admits, Instr.row, encode, pack336_mode1, lowImm_mode]; decide

theorem not (dr sr : Reg) : Statement (.not dr sr) := by
  simp only [Statement, Row.admits, Instr.row, encode, pack336_opcode]; decide

theorem br (nzp : BitVec 3) (off9 : BitVec 9) : Statement (.br nzp off9) := by
  simp only [Statement, Row.admits, Instr.row, encode, pack39_opcode]; decide

theorem jmp (base : Reg) : Statement (.jmp base) := by
  simp only [Statement, Row.admits, Instr.row, encode, pack336_opcode]; decide

theorem jsr (off11 : BitVec 11) : Statement (.jsr off11) := by
  simp only [Statement, Row.admits, Instr.row, encode, pack111_mode]; decide

theorem jsrr (base : Reg) : Statement (.jsrr base) := by
  simp only [Statement, Row.admits, Instr.row, encode, pack336_jsrr]; decide

theorem ld (dr : Reg) (off9 : BitVec 9) : Statement (.ld dr off9) := by
  simp only [Statement, Row.admits, Instr.row, encode, pack39_opcode]; decide

theorem st (sr : Reg) (off9 : BitVec 9) : Statement (.st sr off9) := by
  simp only [Statement, Row.admits, Instr.row, encode, pack39_opcode]; decide

theorem ldr (dr base : Reg) (off6 : BitVec 6) : Statement (.ldr dr base off6) := by
  simp only [Statement, Row.admits, Instr.row, encode, pack336_opcode]; decide

theorem str (sr base : Reg) (off6 : BitVec 6) : Statement (.str sr base off6) := by
  simp only [Statement, Row.admits, Instr.row, encode, pack336_opcode]; decide

theorem res8 (low12 : BitVec 12) : Statement (.res8 low12) := by
  simp only [Statement, Row.admits, Instr.row, encode, pack12_opcode]; decide

theorem ldi (dr : Reg) (off9 : BitVec 9) : Statement (.ldi dr off9) := by
  simp only [Statement, Row.admits, Instr.row, encode, pack39_opcode]; decide

theorem sti (sr : Reg) (off9 : BitVec 9) : Statement (.sti sr off9) := by
  simp only [Statement, Row.admits, Instr.row, encode, pack39_opcode]; decide

theorem res13 (low12 : BitVec 12) : Statement (.res13 low12) := by
  simp only [Statement, Row.admits, Instr.row, encode, pack12_opcode]; decide

theorem lea (dr : Reg) (off9 : BitVec 9) : Statement (.lea dr off9) := by
  simp only [Statement, Row.admits, Instr.row, encode, pack39_opcode]; decide

theorem trap (low4 : BitVec 4) (vect8 : BitVec 8) : Statement (.trap low4 vect8) := by
  simp only [Statement, Row.admits, Instr.row, encode, pack48_opcode]; decide

theorem nop (off9 : BitVec 9) : Statement (.nop off9) := by
  simp only [Statement, Row.admits, Instr.row, encode, pack39_nzp]; decide

theorem ret : Statement .ret := by unfold Statement; decide

theorem getc : Statement .getc := by unfold Statement; decide

theorem out : Statement .out := by unfold Statement; decide

theorem puts : Statement .puts := by unfold Statement; decide

theorem inChar : Statement .inChar := by unfold Statement; decide

theorem putsp : Statement .putsp := by unfold Statement; decide

theorem halt : Statement .halt := by unfold Statement; decide

end Sys2Proof.Laws.EncodesItsRow
end

