-- ==== Sys2Proof/Laws/Step.lean ====
section
/-! SUPPORT. What one step can do, and the two equations of a run. -/

namespace Sys2Proof.Machine

/-- What a step that answers a next state can have done from a RUNNING machine, `u` being the state with the stop
request, if any, one step nearer. -/
theorem advance_cases {u t : State} (h : advance u = .next t) :
    (∃ v, u.service = some v ∧ t = resume v u) ∨
    (u.service = none ∧ exec (decode (fetch u).1) (fetch u).2 = .next t) := by
  cases hv : u.service with
  | some v =>
    simp only [advance, hv, Host.Outcome.next.injEq] at h
    exact .inl ⟨v, rfl, h.symm⟩
  | none =>
    simp only [advance, hv] at h
    exact .inr ⟨rfl, h⟩

/-- Everything a step that answers a next state can have done. -/
theorem step_cases {s t : State} (h : step s = .next t) :
    (s.run = .halted ∧ t = s) ∨
    (s.run = .running ∧ ∃ stop', (s.stop = none → stop' = none) ∧ advance (s.setStop stop') = .next t) := by
  cases hr : s.run with
  | halted => simp only [step, hr, Host.Outcome.next.injEq] at h; exact .inl ⟨rfl, h.symm⟩
  | running =>
    refine .inr ⟨rfl, ?_⟩
    match hs : s.stop with
    | none =>
      refine ⟨none, fun _ => rfl, ?_⟩
      simp only [step, hr, hs] at h
      rw [← h, ← hs]
      rfl
    | some ⟨0, n⟩ => simp [step, hr, hs, stopRun] at h
    | some ⟨k + 1, n⟩ =>
      simp only [step, hr, hs] at h
      exact ⟨some ⟨k, n⟩, by simp, h⟩

/-- A machine about to fetch runs the decoded instruction in the state after the fetch. -/
theorem step_ready {s : State} (h : s.ready) : step s = exec (decode (fetch s).1) (fetch s).2 := by
  obtain ⟨hr, hv, hs⟩ := h
  simp only [step, hr, hs, advance, hv]

theorem step_halted {s : State} (h : s.run = .halted) : step s = .next s := by
  simp only [step, h]

/-- A step of a machine with a service in progress goes on with it. -/
theorem step_service {s : State} {v : Service} (hr : s.run = .running) (hs : s.stop = none)
    (hv : s.service = some v) : step s = .next (resume v s) := by
  simp only [step, hr, hs, advance, hv]

theorem run_zero (s : State) : core.run 0 s = .next s := rfl

theorem run_succ_next {s u : State} (k : Nat) (h : step s = .next u) : core.run (k + 1) s = core.run k u := by
  have h' : core.step s = .next u := h
  simp only [Host.Core.run, h']

/-- A run of `k + 1` steps that ends in a state has a first step that answers a state. -/
theorem run_succ_cases {s t : State} {k : Nat} (h : core.run (k + 1) s = .next t) :
    ∃ u, step s = .next u ∧ core.run k u = .next t := by
  cases hu : step s with
  | next u => exact ⟨u, rfl, by rw [← run_succ_next k hu]; exact h⟩
  | fault r => have h' : core.step s = .fault r := hu; simp [Host.Core.run, h'] at h
  | refused r => have h' : core.step s = .refused r := hu; simp [Host.Core.run, h'] at h

end Sys2Proof.Machine
end

