-- ==== Sys2Proof/Tests/Slice0.lean ====
section
/-! SUPPORT. Small tests. Expected values are those of spec/95_test_vectors.md (W and V numbers), of the examples of
the instruction rules, or worked out by hand from a rule. The last part gives, for each obligation with hypotheses,
a concrete state and operands that meet them (names begin `witness_`). -/

namespace Sys2Proof.Tests

open Sys2Proof.Machine

/-! ### Ill-formed terms are refused -/

theorem test_wf_br_mask_zero : Instr.wellFormed (.br 0#3 5#9) = false := by decide
theorem test_wf_jmp_r7 : Instr.wellFormed (.jmp 7) = false := by decide
theorem test_wf_trap_service_vector : Instr.wellFormed (.trap 1#4 0x25#8) = false := by decide
theorem test_wf_trap_other_vector : Instr.wellFormed (.trap 1#4 0x26#8) = true := by decide

/-! ### Words written out from the patterns of R154, one or more per constructor -/

theorem test_decode_addReg : decode 0b0001_010_000_0_00_001#16 = .addReg 2 0 1 := by decide
theorem test_decode_addImm : decode 0b0001_000_000_1_11111#16 = .addImm 0 0 0b11111#5 := by decide
theorem test_decode_andReg : decode 0b0101_011_001_0_11_010#16 = .andReg 3 1 2 := by decide
theorem test_decode_andImm : decode 0b0101_010_001_1_10000#16 = .andImm 2 1 0b10000#5 := by decide
theorem test_decode_not : decode 0b1001_100_011_111111#16 = .not 4 3 := by decide
theorem test_decode_br : decode 0b0000_101_000000010#16 = .br 0b101#3 2#9 := by decide
theorem test_decode_nop : decode 0b0000_000_000000101#16 = .nop 5#9 := by decide
theorem test_decode_jmp : decode 0b1100_111_010_111111#16 = .jmp 2 := by decide
theorem test_decode_ret : decode 0b1100_000_111_000000#16 = .ret := by decide
theorem test_decode_jsr : decode 0b0100_1_10000000000#16 = .jsr 0b10000000000#11 := by decide
theorem test_decode_jsrr : decode 0b0100_0_11_010_111111#16 = .jsrr 2 := by decide
theorem test_decode_ld : decode 0b0010_001_100000000#16 = .ld 1 0b100000000#9 := by decide
theorem test_decode_st : decode 0b0011_110_111111111#16 = .st 6 0b111111111#9 := by decide
theorem test_decode_ldr : decode 0b0110_010_001_100000#16 = .ldr 2 1 0b100000#6 := by decide
theorem test_decode_str : decode 0b0111_011_001_000010#16 = .str 3 1 2#6 := by decide
theorem test_decode_ldi : decode 0b1010_011_000000110#16 = .ldi 3 6#9 := by decide
theorem test_decode_sti : decode 0b1011_100_000000010#16 = .sti 4 2#9 := by decide
theorem test_decode_lea : decode 0b1110_001_000000111#16 = .lea 1 7#9 := by decide
theorem test_decode_res8 : decode 0b1000_111111111111#16 = .res8 0xFFF#12 := by decide
theorem test_decode_res13 : decode 0b1101_111010101101#16 = .res13 0xEAD#12 := by decide
theorem test_decode_trap : decode 0b1111_0001_00100110#16 = .trap 1#4 0x26#8 := by decide
theorem test_decode_getc : decode 0b1111_0000_00100000#16 = .getc := by decide
theorem test_decode_out : decode 0b1111_0010_00100001#16 = .out := by decide
theorem test_decode_puts : decode 0b1111_0000_00100010#16 = .puts := by decide
theorem test_decode_inChar : decode 0b1111_0000_00100011#16 = .inChar := by decide
theorem test_decode_putsp : decode 0b1111_1111_00100100#16 = .putsp := by decide
theorem test_decode_halt : decode 0b1111_0001_00100101#16 = .halt := by decide
theorem test_decodeTableWord : decodeTableWord 16 0x1042 = some (.addReg 0 1 2) ∧ decodeTableWord 17 0 = none := by
  decide

/-! ### One step on a small state: `at_` places a word at 0x3000 or at another pc, and the step runs it -/

/-- The reset state with values given to the two OPEN parameters, so that whole states can be compared. -/
def base : State := { State.reset with params := { Config.defaultParams with inPrompt := [], pollTimeout := 0 } }

/-- `base` with registers, memory words and input bytes set. -/
def mk (regs : List (Reg × Word)) (mem : List (Word × Word)) (input : List Byte) (draws : List Bool) : State :=
  (mem.foldl (fun s c => memWrite s c.1 c.2) (regs.foldl (fun s c => writeReg s c.1 c.2) base)).setConsole
    ⟨input, draws, 0, [], .raw⟩

/-- One step that runs the word `w` placed at address `a`. -/
def runAt (a : Word) (w : Nat) (s : State) : Result := step ((s.setPc a).withFetchWord 16 w)

/-- A property of the next state a step answers. -/
def after (r : Result) (p : State → Bool) : Bool :=
  match r with
  | .next t => p t
  | .fault _ => false
  | .refused _ => false

/-- A property of the error a step ends in. -/
def fails (r : Result) (p : Fault → Bool) : Bool :=
  match r with
  | .next _ => false
  | .fault f => p f
  | .refused _ => false

theorem test_addReg_W4 : after (runAt 0x3000 0x1401 (mk [(0, 2), (1, 3)] [] [] []))
    (fun t => readReg t 2 == 5 && t.cond == .positive && t.pc == 0x3001) = true := by decide
theorem test_addReg_V2_carry : after (runAt 0x3000 0x1042 (mk [(1, 0xFFFF), (2, 1)] [] [] []))
    (fun t => readReg t 0 == 0 && t.cond == .zero) = true := by decide
theorem test_addImm_V4 : after (runAt 0x3000 0x1270 (mk [(1, 5)] [] [] []))
    (fun t => readReg t 1 == 0xFFF5 && t.cond == .negative) = true := by decide
theorem test_andReg_V7 : after (runAt 0x3000 0x5042 (mk [(1, 0xFFFF), (2, 0x8000)] [] [] []))
    (fun t => readReg t 0 == 0x8000 && t.cond == .negative) = true := by decide
theorem test_andImm_V10 : after (runAt 0x3000 0x5470 (mk [(1, 0x1234)] [] [] []))
    (fun t => readReg t 2 == 0x1230 && t.cond == .positive) = true := by decide
theorem test_not_V14_ignored_bits : after (runAt 0x3000 0x9000 (mk [(0, 0xFFFF)] [] [] []))
    (fun t => readReg t 0 == 0 && t.cond == .zero) = true := by decide
theorem test_br_V17_taken : after (runAt 0x3000 0x0900 ((mk [] [] [] []).setCond .negative))
    (fun t => t.pc == 0x2F01) = true := by decide
theorem test_br_V20_not_taken : after (runAt 0x3000 0x0802 ((mk [] [] [] []).setCond .positive))
    (fun t => t.pc == 0x3001) = true := by decide
theorem test_br_V19_wrap : after (runAt 0xFFFF 0x0E01 (mk [] [] [] [])) (fun t => t.pc == 0x0001) = true := by decide
theorem test_nop_V15 : after (runAt 0x3000 0x0005 (mk [] [] [] [])) (fun t => t.pc == 0x3001) = true := by decide
theorem test_jmp : after (runAt 0x3000 0xC080 (mk [(2, 0x4000)] [] [] [])) (fun t => t.pc == 0x4000) = true := by decide
theorem test_ret_V21 : after (runAt 0x3000 0xC1C0 (mk [(7, 0x3003)] [] [] []))
    (fun t => t.pc == 0x3003 && t.cond == .zero) = true := by decide
theorem test_jsr_V22 : after (runAt 0x3000 0x4C00 (mk [] [] [] []))
    (fun t => readReg t 7 == 0x3001 && t.pc == 0x2C01) = true := by decide
theorem test_jsrr_V24_r7 : after (runAt 0x3000 0x41C0 (mk [(7, 0x4000)] [] [] []))
    (fun t => readReg t 7 == 0x3001 && t.pc == 0x3001) = true := by decide
theorem test_jsrr_V25 : after (runAt 0x3000 0x4080 ((mk [(2, 0x4000)] [] [] []).setCond .negative))
    (fun t => readReg t 7 == 0x3001 && t.pc == 0x4000 && t.cond == .negative) = true := by decide
theorem test_ld_V26 : after (runAt 0x3000 0x2100 (mk [] [(0x2F01, 0x8000)] [] []))
    (fun t => readReg t 0 == 0x8000 && t.cond == .negative) = true := by decide
theorem test_ldi_W6 : after (runAt 0x3002 0xA606 (mk [] [(0x3009, 0x3008), (0x3008, 7)] [] []))
    (fun t => readReg t 3 == 7 && t.cond == .positive) = true := by decide
theorem test_ldr_V29_wrap : after (runAt 0x3000 0x6041 (mk [(1, 0xFFFF)] [(0, 0x42)] [] []))
    (fun t => readReg t 0 == 0x42 && t.cond == .positive) = true := by decide
theorem test_ldr_W10_poll_false : after (runAt 0x3000 0x6440 (mk [(1, 0xFE00)] [(0xFE00, 0x1234)] [0x71] [false]))
    (fun t => readReg t 2 == 0 && t.cond == .zero && rawRead t 0xFE00 == 0 && t.console.input == [0x71]) = true := by
  decide
theorem test_ldr_V37_poll_true : after (runAt 0x3000 0x6440 (mk [(1, 0xFE00)] [(0xFE00, 0x1234)] [0x71] [true]))
    (fun t => readReg t 2 == 0x8000 && t.cond == .negative && rawRead t 0xFE02 == 0x71 && t.console.input == []) = true := by
  decide
theorem test_lea_V31 : after (runAt 0x8000 0xE000 (mk [] [] [] []))
    (fun t => readReg t 0 == 0x8001 && t.cond == .negative) = true := by decide
theorem test_st_V33_own_word : after (runAt 0x3000 0x31FF (mk [(0, 0xABCD)] [] [] []))
    (fun t => rawRead t 0x3000 == 0xABCD && t.cond == .zero) = true := by decide
theorem test_sti_V34 : after (runAt 0x3006 0xB802 (mk [(4, 0xFFF1)] [(0x3009, 0x3008)] [] []))
    (fun t => rawRead t 0x3008 == 0xFFF1 && rawRead t 0x3009 == 0x3008) = true := by decide
theorem test_str_V35_kbsr_is_plain : after (runAt 0x3000 0x7040 (mk [(1, 0xFE00), (0, 0x1234)] [] [0x71] [true]))
    (fun t => rawRead t 0xFE00 == 0x1234 && t.console.input == [0x71]) = true := by decide
theorem test_getc_V41 : after (runAt 0x3000 0xF020 (mk [] [] [0xFF] []))
    (fun t => readReg t 0 == 0xFF && t.cond == .positive && readReg t 7 == 0x3001 && t.console.out == []) = true := by decide
theorem test_getc_V42_waits : after (runAt 0x3000 0xF020 (mk [] [] [] []))
    (fun t => t.service == some .getc && after (step t) (fun u => u == t)) = true := by decide
theorem test_out_V39 : after (runAt 0x3000 0xF021 (mk [(0, 0x1241)] [] [] []))
    (fun t => t.console.out == [0x41] && readReg t 7 == 0x3001 && readReg t 0 == 0x1241) = true := by decide
theorem test_puts_V44 : after (runAt 0x3000 0xF022 (mk [(0, 0x4000)] [(0x4000, 0x0041), (0x4001, 0x0100)] [] []))
    (fun t => t.console.out == [0x41, 0x00] && t.service == none) = true := by decide
theorem test_puts_V47_wrap : after (runAt 0x3000 0xF022 (mk [(0, 0xFFFF)] [(0xFFFF, 0x58)] [] []))
    (fun t => t.console.out == [0x58]) = true := by decide
theorem test_in_V43 : after (runAt 0x3000 0xF023 (mk [] [] [0x37] []))
    (fun t => t.console.out == [0x37] && readReg t 0 == 0x37 && t.cond == .positive) = true := by decide
theorem test_putsp_V45 : after (runAt 0x3000 0xF024 (mk [(0, 0x4000)] [(0x4000, 0x4100)] [] []))
    (fun t => t.console.out == []) = true := by decide
theorem test_putsp_V46 : after (runAt 0x3000 0xF024 (mk [(0, 0x4000)] [(0x4000, 0x0041), (0x4001, 0x6948)] [] []))
    (fun t => t.console.out == [0x41, 0x48, 0x69]) = true := by decide
theorem test_halt_V48 : after (runAt 0x3000 0xF125 (mk [] [] [] []))
    (fun t => t.run == .halted && readReg t 7 == 0x3001 && t.pc == 0x3001 && t.console.mode == .prior) = true := by decide
theorem test_trap_V49 : fails (runAt 0x3000 0xF026 (mk [] [] [] []))
    (fun f => f == .unrecognizedTrap 0x3000 0xF026 [] .prior) = true := by decide
theorem test_res8_V53 : fails (runAt 0x3000 0x8FFF (mk [] [] [] []))
    (fun f => match f with | .illegalInstruction a ir t => a == 0x3000 && ir == 0x8FFF && t.pc == 0x3000 | _ => false)
    = true := by decide
theorem test_res13_V52 : fails (runAt 0x3001 0xDEAD (mk [] [] [] []))
    (fun f => match f with | .illegalInstruction a ir _ => a == 0x3001 && ir == 0xDEAD | _ => false) = true := by decide
theorem test_fetch_V54_poll_true : fails (step ((mk [] [] [0x41] [true]).setPc 0xFE00))
    (fun f => match f with
      | .illegalInstruction a ir t => a == 0xFE00 && ir == 0x8000 && rawRead t 0xFE02 == 0x41 | _ => false) = true := by
  decide
theorem test_fetch_V55_poll_false : after (step ((mk [] [] [0x41] [false]).setPc 0xFE00))
    (fun t => t.pc == 0xFE01 && rawRead t 0xFE00 == 0) = true := by decide

/-! ### Boot (W8, V56 to V59) and the host's stop -/

theorem test_boot_W8 : after (boot Config.defaultParams [] [] (some [0x30, 0x00, 0x12, 0x34, 0x56]))
    (fun t => rawRead t 0x3000 == 0x1234 && rawRead t 0x3001 == 0 && t.pc == 0x3000) = true := by decide
theorem test_boot_V56 : fails (boot Config.defaultParams [] [] (some [0x30]))
    (fun f => f == .startupError .noOrigin) = true := by decide
theorem test_boot_V58 :
    after (boot Config.defaultParams [] [] (some [0xFF, 0xFE, 0x11, 0x11, 0x22, 0x22, 0x33, 0x33]))
    (fun t => rawRead t 0xFFFE == 0x1111 && rawRead t 0xFFFF == 0 && rawRead t 0 == 0) = true := by decide
theorem test_boot_V59 : after (boot Config.defaultParams [] [] (some [0xFF, 0xFF, 0x11, 0x11]))
    (fun t => rawRead t 0xFFFF == 0 && t.pc == 0x3000) = true := by decide
theorem test_stop_inside_puts : fails (step (hostStop 0 1 ((mk [(0, 0x4000)]
      [(0x3000, 0xF022), (0x4000, 0x48), (0x4001, 0x69)] [] []))))
    (fun f => f == .interrupt [0x48] .prior) = true := by decide
theorem test_stop_in_a_later_step : after (step (hostStop 1 0 base)) (fun t => t.pc == 0x3001
      && fails (step t) (fun f => f == .interrupt [] .prior)) = true := by decide
theorem test_halted_stays : after (step (base.setRun .halted)) (fun t => t == base.setRun .halted) = true := by decide

/-! ### Witnesses: for each obligation with hypotheses, values that meet them -/

theorem witness_DecodeOfEncode : Instr.wellFormed (.br 0b111#3 0x1FF#9) = true := by decide
theorem witness_IgnoredBits : 0x9000#16 &&& (decode 0x9000#16).row.reads = 0x903F#16 &&& (decode 0x9000#16).row.reads := by
  decide
/-- The hypotheses of the encoding clauses, on words that the spec's examples write out. -/
theorem witness_encodings_operate : (opcodeOf 0x1401#16 = 0x1#4 ∧ (0x1401#16).getLsbD 5 = false)
    ∧ (opcodeOf 0x103F#16 = 0x1#4 ∧ (0x103F#16).getLsbD 5 = true) ∧ (opcodeOf 0x5642#16 = 0x5#4 ∧ (0x5642#16).getLsbD 5 = false)
    ∧ (opcodeOf 0x5020#16 = 0x5#4 ∧ (0x5020#16).getLsbD 5 = true) ∧ opcodeOf 0x98FF#16 = 0x9#4 := by decide
theorem witness_encodings_control : (opcodeOf 0x0402#16 = 0x0#4 ∧ (0x0402#16).extractLsb' 9 3 ≠ 0b000#3)
    ∧ (opcodeOf 0x0000#16 = 0x0#4 ∧ (0x0000#16).extractLsb' 9 3 = 0b000#3) ∧ (opcodeOf 0xC080#16 = 0xC#4 ∧ regAt 6 0xC080#16 ≠ 7)
    ∧ (opcodeOf 0xC1C0#16 = 0xC#4 ∧ regAt 6 0xC1C0#16 = 7) ∧ (opcodeOf 0x4803#16 = 0x4#4 ∧ (0x4803#16).getLsbD 11 = true)
    ∧ (opcodeOf 0x4080#16 = 0x4#4 ∧ (0x4080#16).getLsbD 11 = false) := by decide
theorem witness_encodings_memory : opcodeOf 0x2005#16 = 0x2#4 ∧ opcodeOf 0xA606#16 = 0xA#4 ∧ opcodeOf 0x6440#16 = 0x6#4
    ∧ opcodeOf 0xE207#16 = 0xE#4 ∧ opcodeOf 0x31FF#16 = 0x3#4 ∧ opcodeOf 0xB802#16 = 0xB#4 ∧ opcodeOf 0x7642#16 = 0x7#4 := by decide
theorem witness_encodings_traps : opcodeOf 0xF125#16 = 0xF#4
    ∧ (0xF020#16).extractLsb' 0 8 = 0x20#8 ∧ (0xF021#16).extractLsb' 0 8 = 0x21#8 ∧ (0xF022#16).extractLsb' 0 8 = 0x22#8
    ∧ (0xF023#16).extractLsb' 0 8 = 0x23#8 ∧ (0xF024#16).extractLsb' 0 8 = 0x24#8 ∧ (0xF125#16).extractLsb' 0 8 = 0x25#8
    ∧ opcodeOf 0x8000#16 = 0x8#4 ∧ opcodeOf 0xDEAD#16 = 0xD#4 := by decide
theorem witness_SetccRule : (0x8000#16).getLsbD 15 = true ∧ (0x7FFF#16 ≠ 0x0000#16 ∧ (0x7FFF#16).getLsbD 15 = false) := by
  decide
theorem witness_MemReadRule : (0x3000#16 : Word) ≠ base.params.kbsrAddr ∧ (0xFE00#16 : Word) = base.params.kbsrAddr := by
  decide
theorem witness_KeyboardPollRule_found : base.params.kbsrAddr ≠ base.params.kbdrAddr
    ∧ (mk [] [] [0x41] [true]).console.input = [0x41] ∧ pollAnswer (mk [] [] [0x41] [true]).console = true := by decide
theorem witness_KeyboardPollRule_empty : pollAnswer (mk [] [] [] [true]).console = false
    ∧ pollAnswer (mk [] [] [0x41] [false]).console = false := by decide
theorem witness_KbsrReadNeverShowsAStoredValue : base.params.kbsrAddr ≠ base.params.kbdrAddr := by decide
theorem witness_CanonicalMemoryIsUnique : Memory.wf [(0, 1#16), (65535, 2#16)] = true
    ∧ ∀ a : Word, Memory.read [(0, 1#16), (65535, 2#16)] a.toNat = Memory.read [(0, 1#16), (65535, 2#16)] a.toNat :=
  ⟨by decide, fun _ => rfl⟩
theorem witness_BranchRule_taken : (0b010#3).getLsbD 1 = true ∧ base.cond = .zero := by decide
theorem witness_BranchRule_not_taken : ¬ ((0b101#3).getLsbD 2 = true ∧ base.cond = .negative
    ∨ (0b101#3).getLsbD 1 = true ∧ base.cond = .zero ∨ (0b101#3).getLsbD 0 = true ∧ base.cond = .positive) := by decide
theorem witness_LdLoads_plain : base.pc + sext 5#9 ≠ base.params.kbsrAddr := by decide
theorem witness_LdLoads_kbsr : (base.setPc 0xFE01).pc + sext 0x1FF#9 = base.params.kbsrAddr := by decide
theorem witness_LdiLoads : ∃ p v s1 s2, memRead base (base.pc + sext 5#9) = (p, s1) ∧ memRead s1 p = (v, s2) :=
  ⟨_, _, _, _, rfl, rfl⟩
theorem witness_LdrLoads_plain : readReg base 1 + sext 0x20#6 ≠ base.params.kbsrAddr := by decide
theorem witness_LdrLoads_kbsr :
    readReg (mk [(1, 0xFE00)] [] [] []) 1 + sext 0#6 = (mk [(1, 0xFE00)] [] [] []).params.kbsrAddr := by decide
theorem witness_StiStores : ∃ p s1, memRead base (base.pc + sext 5#9) = (p, s1) := ⟨_, _, rfl⟩
theorem witness_StoreIsSeen_st : memStore base (.st 1 0#9) = some base.pc ∧ base.pc ≠ base.params.kbsrAddr
    ∧ (∃ t, exec (.st 1 0#9) base = .next t ∧ t.ready) := ⟨by decide, by decide, _, rfl, rfl, rfl, rfl⟩
theorem witness_StoreIsSeen_sti : memStore (mk [] [(0x3006, 0x3000)] [] []) (.sti 1 6#9) = some 0x3000#16
    ∧ (∃ t, exec (.sti 1 6#9) (mk [] [(0x3006, 0x3000)] [] []) = .next t) := ⟨by decide, _, rfl⟩
theorem witness_StoreIsSeen_str : memStore (mk [(2, 0x2FFF)] [] [] []) (.str 1 2 1#6) = some 0x3000#16
    ∧ (∃ t, exec (.str 1 2 1#6) (mk [(2, 0x2FFF)] [] [] []) = .next t) := ⟨by decide, _, rfl⟩
theorem witness_TrapDispatch : 0x20#8 ≤ 0x20#8 ∧ 0x20#8 ≤ 0x25#8 ∧ 0x25#8 ≤ (0x25#8 : Byte) := by decide
theorem witness_GetcTakesAByteOrWaits : (mk [] [] [0x00, 0x41] []).console.input = 0x00 :: [0x41]
    ∧ (mk [] [] [0x41] []).console.input = 0x41 :: [] ∧ (0x41 : Byte) ≠ 0#8 := by decide
theorem witness_InPromptsReadsAndEchoesOrWaits : (mk [] [] [0x37] []).console.input = 0x37 :: [] := by decide
theorem witness_Puts_empty_string : rawRead base (readReg base 0 + BitVec.ofNat 16 0) = 0x0000#16 := by decide
theorem witness_Puts_two_words : (∀ k < 2, rawRead (mk [(0, 0xFFFF)] [(0xFFFF, 0x48), (0, 0x69)] [] [])
      (0xFFFF#16 + BitVec.ofNat 16 k) ≠ 0x0000#16)
    ∧ rawRead (mk [(0, 0xFFFF)] [(0xFFFF, 0x48), (0, 0x69)] [] []) (0xFFFF#16 + BitVec.ofNat 16 2) = 0x0000#16
    ∧ readReg (mk [(0, 0xFFFF)] [(0xFFFF, 0x48), (0, 0x69)] [] []) 0 = 0xFFFF#16 := by decide
theorem witness_Putsp_empty_string :
    (rawRead (mk [] [(0, 0x4100)] [] []) (0#16 + BitVec.ofNat 16 0)).extractLsb' 0 8 = 0x00#8 := by decide
theorem witness_Putsp_two_words : (∀ k < 2, (rawRead (mk [(0, 0x4000)] [(0x4000, 0x6948), (0x4001, 0x21)] [] [])
      (0x4000#16 + BitVec.ofNat 16 k)).extractLsb' 0 8 ≠ 0x00#8)
    ∧ (rawRead (mk [(0, 0x4000)] [(0x4000, 0x6948), (0x4001, 0x21)] [] [])
      (0x4000#16 + BitVec.ofNat 16 2)).extractLsb' 0 8 = 0x00#8 := by decide
theorem witness_UnrecognizedTrapFaults : 0x1F#8 < 0x20#8 ∧ 0x25#8 < (0x26#8 : Byte) := by decide
theorem witness_GetcAndIn_wait : base.console.input = [] ∧ base.run = .running ∧ base.stop = none := by decide
theorem witness_DeliveryEndsTheWait : base.ready ∧ base.console.input = [] ∧ (∃ w, exec .getc base = .next w)
    ∧ (∃ w, exec .inChar base = .next w) := ⟨⟨rfl, rfl, rfl⟩, rfl, ⟨_, rfl⟩, ⟨_, rfl⟩⟩

/-- `n` words equal to 1 from address `lo` on. -/
def filled (lo : Nat) : Nat → Memory
  | 0 => []
  | n + 1 => (lo, 1#16) :: filled (lo + 1) n

theorem filled_read (n lo a : Nat) (h : lo ≤ a) (h' : a < lo + n) : Memory.read (filled lo n) a = 1#16 := by
  induction n generalizing lo with
  | zero => omega
  | succ n ih =>
    by_cases e : lo = a
    · simp [filled, Memory.read, e]
    · simpa [filled, Memory.read, e] using ih (lo + 1) (by omega) (by omega)

theorem filled_wf (n lo : Nat) (h : lo + n ≤ 65536) : Memory.wfFrom lo (filled lo n) = true := by
  induction n generalizing lo with
  | zero => rfl
  | succ n ih =>
    have hlo : lo < 65536 := by omega
    simp [filled, Memory.wfFrom, Config.memReset, hlo, ih (lo + 1) (by omega)]

theorem witness_PutsAndPutsp_never_end : (base.setMem (filled 0 65536)).ready
    ∧ (base.setMem (filled 0 65536)).mem.wf = true
    ∧ (∀ a : Word, rawRead (base.setMem (filled 0 65536)) a ≠ 0x0000#16)
    ∧ ∀ a : Word, (rawRead (base.setMem (filled 0 65536)) a).extractLsb' 0 8 ≠ 0x00#8 := by
  have h : ∀ a : Word, rawRead (base.setMem (filled 0 65536)) a = 1#16 := fun a =>
    filled_read 65536 0 a.toNat (Nat.zero_le _) (by omega)
  refine ⟨⟨rfl, rfl, rfl⟩, filled_wf 65536 0 (Nat.le_refl _), fun a => ?_, fun a => ?_⟩ <;> rw [h] <;> decide

theorem witness_StepRunsTheDecodedInstruction : base.run = .running ∧ base.service = none ∧ base.stop = none
    ∧ (∃ ir s1, memRead base base.pc = (ir, s1)) ∧ (hostStop 1 0 base).run = .running
    ∧ (hostStop 1 0 base).service = none ∧ (hostStop 1 0 base).stop = some ⟨0 + 1, 0⟩ :=
  ⟨rfl, rfl, rfl, ⟨_, _, rfl⟩, rfl, rfl, rfl⟩
theorem witness_FetchFromKbsrPolls : ((mk [] [] [0x41] [true]).setPc 0xFE00).ready
    ∧ ((mk [] [] [0x41] [true]).setPc 0xFE00).pc = base.params.kbsrAddr
    ∧ pollAnswer (mk [] [] [0x41] [true]).console = true ∧ pollAnswer (mk [] [] [0x41] [false]).console = false
    ∧ base.params.kbsrAddr ≠ base.params.kbdrAddr := ⟨⟨rfl, rfl, rfl⟩, by decide, by decide, by decide, by decide⟩
theorem witness_IllegalInstructionIsPrecise :
    ∃ a ir f, step (base.withFetchWord 16 0x8000) = .fault (.illegalInstruction a ir f) := ⟨_, _, _, rfl⟩
theorem witness_HaltedIsFinal_halted : (base.setRun .halted).run = .halted := rfl
theorem witness_OnlyTrapHaltHalts_halting : (base.withFetchWord 16 0xF025).run = .running
    ∧ ∃ t, step (base.withFetchWord 16 0xF025) = .next t ∧ t.run = .halted := ⟨rfl, _, rfl, rfl⟩
theorem witness_HostStopEndsTheRun : base.run = .running ∧ (base.setRun .halted).run = .halted := ⟨rfl, rfl⟩
theorem witness_OnlyListed : (∃ t, exec (.st 1 0#9) base = .next t) ∧ writesCond (.st 1 0#9) = false
    ∧ writesPc (.st 1 0#9) = false ∧ memStore base (.st 1 0#9) ≠ some 0x4000#16
    ∧ base.params.kbsrAddr ∉ memReads base (.st 1 0#9) := ⟨⟨_, rfl⟩, rfl, rfl, by decide, by decide⟩
theorem witness_OnlyListedAccesses_kbsr :
    (base.setPc 0xFE01).params.kbsrAddr ∈ memReads (base.setPc 0xFE01) (.ld 0 0x1FF#9)
    ∧ (0x4000#16 : Word) ≠ base.params.kbsrAddr ∧ (0x4000#16 : Word) ≠ base.params.kbdrAddr := by decide
theorem witness_BootMeetsTheInvariant : Config.defaultParams.kbsrAddr ≠ Config.defaultParams.kbdrAddr
    ∧ ∃ s, boot Config.defaultParams [] [] (some [0x30, 0x00]) = .next s := ⟨by decide, _, rfl⟩
theorem witness_EveryStepKeepsTheInvariant : base.inv = true ∧ ∃ t, step (base.withFetchWord 16 0xF025) = .next t :=
  ⟨by decide, _, rfl⟩
theorem witness_RunsOnlyExtend : ∃ t, runsTo 2 base t := ⟨_, rfl⟩
theorem witness_StartupError : ([0x30] : List Byte).length < 2 ∧ 2 ≤ ([0x30, 0x00] : List Byte).length := by decide

end Sys2Proof.Tests
end

section
/-! SUPPORT. Sign extension (00_scope.md R113, O7). -/

namespace Sys2Proof.Machine

/-- The two summands of R113 have no bit in common: the field lies below bit `n`, the copies of its sign from there
on. So their sum is their bitwise or. -/
theorem setWidth_and_shiftLeft_eq_zero {n : Nat} (v : BitVec n) : v.setWidth 16 &&& (0xFFFF#16 <<< n) = 0#16 := by
  ext i hi
  by_cases hn : i < n
  · simp [hn]
  · simp [BitVec.getLsbD_of_ge v i (by omega)]

theorem getElem_ffff {i : Nat} (h : i < 16) : (0xFFFF#16)[i] = true :=
  BitVec.getElem_allOnes (v := 16) i h

/-- The formula of R113, at every width: both sides agree on the bits of the field and on the copies of its sign. -/
theorem sext_eq_formula {n : Nat} (v : BitVec n) :
    sext v = if v.getLsbD (n - 1) then v.setWidth 16 + (0xFFFF#16 <<< n) else v.setWidth 16 := by
  rw [BitVec.add_eq_or_of_and_eq_zero _ _ (setWidth_and_shiftLeft_eq_zero v), ← BitVec.msb_eq_getLsbD_last]
  ext i hi
  by_cases hn : i < n
  · cases v.msb <;> simp [sext, BitVec.getElem_signExtend, hn]
  · have hfield : v.getLsbD i = false := BitVec.getLsbD_of_ge v i (by omega)
    cases hsign : v.msb <;> simp [sext, BitVec.getElem_signExtend, hn, hsign, hfield, getElem_ffff]

/-- Settles O7: the formula holds at every width, the four in use among them. -/
theorem signExtensionFormula : Obligations.SignExtensionFormula :=
  fun _ _ v => sext_eq_formula v

end Sys2Proof.Machine
end

section
/-! SUPPORT. The invariant and every step (00_scope.md R110, 10_state.md R128, 70_reset_and_hazards.md R213, O52).
A step from a HALTED machine stays; every other step starts in a live state. All operations but `haltRun` keep a
state live, and `haltRun` is reached only from a fetch, when no service is in progress. -/

namespace Sys2Proof.Machine

/-- The invariant of a RUNNING machine (`live_iff`), a field per clause. -/
structure State.Live (s : State) : Prop where
  memWf : s.mem.wf = true
  paramsWf : s.params.wf = true
  running : s.run = .running
  raw : s.console.mode = .raw

/-- The invariant as its clauses: canonical memory, distinct device addresses, and the console's mode and the
service by the run state. -/
theorem inv_iff (s : State) :
    s.inv = true ↔ s.mem.wf = true ∧ s.params.wf = true ∧
      ((s.run = .running ∧ s.console.mode = .raw) ∨
        (s.run = .halted ∧ s.console.mode = .prior ∧ s.service = none)) := by
  simp [State.inv, and_assoc]

theorem live_iff (s : State) : s.Live ↔ s.inv = true ∧ s.run = .running := by
  rw [inv_iff]
  constructor
  · rintro ⟨hmem, hparams, hrun, hraw⟩
    exact ⟨⟨hmem, hparams, .inl ⟨hrun, hraw⟩⟩, hrun⟩
  · rintro ⟨⟨hmem, hparams, ⟨-, hraw⟩ | ⟨hhalt, -, -⟩⟩, hrun⟩
    · exact ⟨hmem, hparams, hrun, hraw⟩
    · rw [hrun] at hhalt; cases hhalt

namespace State.Live

variable {s : State} (hs : s.Live)
include hs

theorem inv : s.inv = true := ((live_iff s).mp hs).1

/-! ### Operations that keep a state live -/

/-- What keeps a state live: memory stays canonical, and the parameters, the run state and the mode stay. -/
theorem of_same {t : State} (hmem : t.mem.wf = true) (hparams : t.params = s.params) (hrun : t.run = s.run)
    (hmode : t.console.mode = s.console.mode) : t.Live :=
  ⟨hmem, hparams ▸ hs.paramsWf, hrun.trans hs.running, hmode.trans hs.raw⟩

theorem setPc (v : Word) : (s.setPc v).Live := hs.of_same hs.memWf rfl rfl rfl
theorem setService (v : Option Service) : (s.setService v).Live := hs.of_same hs.memWf rfl rfl rfl
theorem setStop (v : Option StopRequest) : (s.setStop v).Live := hs.of_same hs.memWf rfl rfl rfl
theorem writeResult (r : Reg) (v : Word) : (writeResult s r v).Live := hs.of_same hs.memWf rfl rfl rfl
theorem linkR7 : (linkR7 s).Live := hs.of_same hs.memWf rfl rfl rfl
theorem writeChars (bs : List Byte) : (writeChars s bs).Live := hs.of_same hs.memWf rfl rfl rfl
theorem afterRead : (s.setConsole (afterRead s.console)).Live := hs.of_same hs.memWf rfl rfl rfl
theorem memWrite (a v : Word) : (memWrite s a v).Live := hs.of_same (memWrite_wf hs.memWf a v) rfl rfl rfl

theorem memReadState (a : Word) : (memReadState s a).Live :=
  hs.of_same (memReadState_wf hs.memWf a) (memReadState_params s a) (memReadState_run s a) (memReadState_mode s a)

theorem fetch : (fetch s).2.Live := (hs.memReadState s.pc).setPc _

theorem loadInto (dr : Reg) (ea : Word) : (loadInto s dr ea).Live := (hs.memReadState ea).writeResult dr _

/-! ### The trap services (43_trap.md) -/

theorem serviceGetc : (serviceGetc s).Live := by
  obtain ⟨-, h⟩ | ⟨c, _, -, h⟩ := serviceGetc_cases s <;> rw [h]
  · exact hs.setService _
  · exact hs.afterRead.writeResult 0 _

theorem serviceInRead : (serviceInRead s).Live := by
  obtain ⟨-, h⟩ | ⟨c, _, -, h⟩ := serviceInRead_cases s <;> rw [h]
  · exact hs.setService _
  · exact (hs.afterRead.writeChars [c]).writeResult 0 _

theorem serviceIn : (serviceIn s).Live := (hs.writeChars _).serviceInRead
theorem serviceOut : (serviceOut s).Live := hs.writeChars _
theorem servicePuts (a : Word) : (servicePuts a s).Live := (hs.writeChars _).setService _
theorem servicePutsp (a : Word) : (servicePutsp a s).Live := (hs.writeChars _).setService _

theorem resume (v : Service) : (resume v s).Live := by
  have h0 : (s.setService none).Live := hs.setService none
  cases v with
  | getc => exact h0.serviceGetc
  | inChar => exact h0.serviceInRead
  | puts a => exact h0.servicePuts a
  | putsp a => exact h0.servicePutsp a

/-- HALT ends the run in the prior mode; it meets the invariant because no service is in progress (R189, R213). -/
theorem serviceHalt_inv (hv : s.service = none) : (serviceHalt s).inv = true :=
  (inv_iff _).mpr ⟨hs.memWf, hs.paramsWf, .inr ⟨rfl, rfl, hv⟩⟩

end State.Live

/-! ### Every instruction -/

/-- The next state that a result answers, if it answers one, meets the invariant. -/
def AnswersInv (r : Result) : Prop := ∀ t, r = .next t → t.inv = true

namespace AnswersInv

theorem next {t : State} (h : t.inv = true) : AnswersInv (.next t) := by
  rintro _ ⟨⟩
  exact h

theorem live {t : State} (h : t.Live) : AnswersInv (.next t) := next h.inv

theorem fault (f : Fault) : AnswersInv (.fault f) := nofun

end AnswersInv

/-- TRAP with any vector: the six services, or the fault of R190. -/
theorem execTrap_answersInv {s : State} (hs : s.Live) (hv : s.service = none) (low4 : BitVec 4) (vect8 : BitVec 8) :
    AnswersInv (execTrap low4 vect8 s) := by
  unfold execTrap
  split_ifs
  · exact .live hs.linkR7.serviceGetc
  · exact .live hs.linkR7.serviceOut
  · exact .live (hs.linkR7.servicePuts _)
  · exact .live hs.linkR7.serviceIn
  · exact .live (hs.linkR7.servicePutsp _)
  · exact .next (hs.linkR7.serviceHalt_inv hv)
  · exact .fault _

/-- Every instruction, run in a live state with no service in progress. -/
theorem exec_answersInv {s : State} (hs : s.Live) (hv : s.service = none) (i : Instr) : AnswersInv (exec i s) := by
  cases i with
  | addReg dr _ _ | addImm dr _ _ | andReg dr _ _ | andImm dr _ _ | not dr _ | lea dr _ =>
    exact .live (hs.writeResult dr _)
  | br nzp off9 =>
    refine .live ?_
    split
    · exact hs.setPc _
    · exact hs
  | nop _ => exact .live hs
  | jmp _ | ret => exact .live (hs.setPc _)
  | jsr _ | jsrr _ => exact .live (hs.linkR7.setPc _)
  | ld dr _ | ldr dr _ _ => exact .live (hs.loadInto dr _)
  | ldi dr _ => exact .live ((hs.memReadState _).loadInto dr _)
  | st _ _ | str _ _ _ => exact .live (hs.memWrite _ _)
  | sti _ _ => exact .live ((hs.memReadState _).memWrite _ _)
  | res8 _ | res13 _ => exact .fault _
  | trap low4 vect8 => exact execTrap_answersInv hs hv low4 vect8
  | getc => exact .live hs.linkR7.serviceGetc
  | out => exact .live hs.linkR7.serviceOut
  | puts => exact .live (hs.linkR7.servicePuts _)
  | inChar => exact .live hs.linkR7.serviceIn
  | putsp => exact .live (hs.linkR7.servicePutsp _)
  | halt => exact .next (hs.linkR7.serviceHalt_inv hv)

/-- A step of a RUNNING machine that no stop interrupts: a service goes on, or an instruction is fetched. -/
theorem advance_answersInv {s : State} (hs : s.Live) : AnswersInv (advance s) := by
  intro t h
  obtain ⟨v, -, rfl⟩ | ⟨hv, h⟩ := advance_cases h
  · exact (hs.resume v).inv
  · have hv' : (fetch s).2.service = none := by simpa [fetch_snd] using hv
    exact exec_answersInv hs.fetch hv' _ t h

/-- Settles O52, by what a step can do: a HALTED machine stays, a RUNNING one is live and advances. -/
theorem everyStepKeepsTheInvariant : Obligations.EveryStepKeepsTheInvariant := by
  intro s t hinv hstep
  obtain ⟨-, rfl⟩ | ⟨hrun, stop', -, hadv⟩ := step_cases hstep
  · exact hinv
  · have hs : s.Live := (live_iff s).mpr ⟨hinv, hrun⟩
    exact advance_answersInv (hs.setStop stop') t hadv

end Sys2Proof.Machine
end

section
/-! SUPPORT. The state of one machine (10_state.md): the flag (R122, O8), the keyboard status word (R126, O12) and
the reset state (R132, O50, O55). -/

namespace Sys2Proof.Machine

/-- Settles O8: the flag by the three cases of `condOf`, everything else untouched. -/
theorem setccRule : Obligations.SetccRule := by
  intro s v
  refine ⟨?zero, condOf_negative, condOf_positive, fun _ _ => rfl, rfl, fun _ => rfl, rfl, rfl, rfl, rfl, rfl⟩
  rintro rfl
  exact condOf_zero

/-- KBSR after a poll is the poll's answer, whatever KBSR held before (R135). -/
theorem rawRead_kbsrPoll_kbsr {s : State} (hne : s.params.kbsrAddr ≠ s.params.kbdrAddr) :
    rawRead (kbsrPoll s) s.params.kbsrAddr = if pollAnswer s.console then 0x8000#16 else 0x0000#16 := by
  obtain ⟨c, rest, -, hfound, hpoll⟩ | ⟨hempty, hpoll⟩ := kbsrPoll_cases s
  · rw [hpoll, pollFound, rawRead_memWrite_other _ _ hne, rawRead_memWrite_same, if_pos hfound]
  · rw [hpoll, pollEmpty, rawRead_memWrite_same, hempty]
    rfl

/-- Settles O12: a store leaves the console and the parameters, so the poll of the read answers as it would have
before the store. -/
theorem kbsrReadNeverShowsAStoredValue : Obligations.KbsrReadNeverShowsAStoredValue := by
  intro s v hne
  have hpoll : memReadState (memWrite s s.params.kbsrAddr v) s.params.kbsrAddr
      = kbsrPoll (memWrite s s.params.kbsrAddr v) := memReadState_kbsr rfl
  rw [memRead_fst, hpoll]
  exact rawRead_kbsrPoll_kbsr (s := memWrite s s.params.kbsrAddr v) hne

/-- The state at the first fetch meets the invariant for all parameters whose device addresses differ (R110). -/
theorem start_live {p : Params} (hp : p.wf = true) : (State.start p).Live := ⟨Memory.wf_nil, hp, rfl, rfl⟩

/-- Settles O50: the default device addresses differ. -/
theorem resetMeetsTheInvariant : Obligations.ResetMeetsTheInvariant :=
  (start_live (p := Config.defaultParams) (by decide)).inv

/-- Settles O55: the fields of `State.start` at the default parameters; the registers are eight copies of 0. -/
theorem resetState : Obligations.ResetState := by
  refine ⟨rfl, rfl, rfl, rfl, rfl, rfl, fun r => ?regs, fun _ => rfl⟩
  exact Vector.getElem_replicate r.isLt

end Sys2Proof.Machine
end

section
/-! SUPPORT. The canonical form of memory (10_state.md R129, O13). In a canonical list an address below the first
entry reads as the reset contents and the first entry reads as another word, so the words determine the first entry,
and then the rest. -/

namespace Sys2Proof.Machine

theorem Memory.wfFrom_cons {lo k : Nat} {v : Word} {m : Memory} :
    Memory.wfFrom lo ((k, v) :: m) = true ↔
      lo ≤ k ∧ k < 65536 ∧ v ≠ Config.memReset ∧ Memory.wfFrom (k + 1) m = true := by
  simp [Memory.wfFrom, and_assoc]

@[simp] theorem Memory.read_cons_same (k : Nat) (v : Word) (m : Memory) : Memory.read ((k, v) :: m) k = v := by
  simp [Memory.read]

theorem Memory.read_cons_other {k a : Nat} (v : Word) (m : Memory) (h : k ≠ a) :
    Memory.read ((k, v) :: m) a = m.read a := by
  simp [Memory.read, h]

/-- Below the lower bound of its entries a canonical list holds the reset contents. -/
theorem Memory.read_below {lo a : Nat} {m : Memory} (hm : Memory.wfFrom lo m = true) (ha : a < lo) :
    m.read a = Config.memReset := by
  induction m generalizing lo with
  | nil => rfl
  | cons c m ih =>
    obtain ⟨k, v⟩ := c
    obtain ⟨hlo, -, -, htail⟩ := Memory.wfFrom_cons.mp hm
    rw [Memory.read_cons_other v m (by omega)]
    exact ih htail (by omega)

/-- Two lists give the same word at every address of the machine. -/
def Memory.ReadsAlike (m m' : Memory) : Prop := ∀ a < 65536, m.read a = m'.read a

/-- The first entry of a canonical list is matched by a first entry, at the same or a lower address, of every
canonical list that reads alike: with no such entry its address would read as the reset contents. -/
theorem Memory.ReadsAlike.head_le {lo lo' k : Nat} {v : Word} {m m' : Memory} (h : Memory.ReadsAlike ((k, v) :: m) m')
    (hm : Memory.wfFrom lo ((k, v) :: m) = true) (hm' : Memory.wfFrom lo' m' = true) :
    ∃ k' v' rest, m' = (k', v') :: rest ∧ k' ≤ k := by
  obtain ⟨-, hk, hv, -⟩ := Memory.wfFrom_cons.mp hm
  have hread : m'.read k = v := by rw [← h k hk, Memory.read_cons_same]
  cases m' with
  | nil => exact absurd hread.symm hv
  | cons c rest =>
    obtain ⟨k', v'⟩ := c
    refine ⟨k', v', rest, rfl, ?_⟩
    by_contra hlt
    obtain ⟨-, hk', hv', htail'⟩ := Memory.wfFrom_cons.mp hm'
    have hfrom : Memory.wfFrom k' ((k', v') :: rest) = true := Memory.wfFrom_cons.mpr ⟨le_rfl, hk', hv', htail'⟩
    exact hv (hread ▸ Memory.read_below hfrom (not_le.mp hlt))

/-- Canonical lists that read alike and begin at the same address have the same first word, and read alike behind
it: up to that address both tails hold the reset contents. -/
theorem Memory.ReadsAlike.cons_inv {lo lo' k : Nat} {v v' : Word} {m m' : Memory}
    (h : Memory.ReadsAlike ((k, v) :: m) ((k, v') :: m')) (hm : Memory.wfFrom lo ((k, v) :: m) = true)
    (hm' : Memory.wfFrom lo' ((k, v') :: m') = true) : v = v' ∧ Memory.ReadsAlike m m' := by
  obtain ⟨-, hk, -, htail⟩ := Memory.wfFrom_cons.mp hm
  obtain ⟨-, -, -, htail'⟩ := Memory.wfFrom_cons.mp hm'
  refine ⟨by simpa using h k hk, fun a ha => ?_⟩
  by_cases hka : k = a
  · rw [Memory.read_below htail (by omega), Memory.read_below htail' (by omega)]
  · rw [← Memory.read_cons_other v m hka, h a ha, Memory.read_cons_other v' m' hka]

/-- Canonical lists that read alike are equal, whatever bounds they start from. -/
theorem Memory.eq_of_readsAlike {lo lo' : Nat} {m m' : Memory} (hm : Memory.wfFrom lo m = true)
    (hm' : Memory.wfFrom lo' m' = true) (h : Memory.ReadsAlike m m') : m = m' := by
  have hsymm : Memory.ReadsAlike m' m := fun a ha => (h a ha).symm
  induction m generalizing lo lo' m' with
  | nil =>
    cases m' with
    | nil => rfl
    | cons c rest => obtain ⟨_, _, _, heq, -⟩ := hsymm.head_le hm' hm; cases heq
  | cons c m ih =>
    obtain ⟨k, v⟩ := c
    obtain ⟨k', v', rest, rfl, hle⟩ := h.head_le hm hm'
    obtain ⟨_, _, _, heq, hge⟩ := hsymm.head_le hm' hm
    cases heq
    obtain rfl : k' = k := by omega
    obtain ⟨rfl, htails⟩ := h.cons_inv hm hm'
    obtain ⟨-, -, -, htail⟩ := Memory.wfFrom_cons.mp hm
    obtain ⟨-, -, -, htail'⟩ := Memory.wfFrom_cons.mp hm'
    rw [ih htail htail' htails fun a ha => (htails a ha).symm]

/-- Settles O13: every address of the machine is the number of a word. -/
theorem canonicalMemoryIsUnique : Obligations.CanonicalMemoryIsUnique := by
  intro m m' hm hm' h
  refine Memory.eq_of_readsAlike hm hm' fun a ha => ?_
  simpa [Nat.mod_eq_of_lt ha] using h (BitVec.ofNat 16 a)

end Sys2Proof.Machine
end

section
/-! SUPPORT. The image in memory and the state at the first fetch (20_memory.md R144, R145, 10_state.md R132, O54). -/

namespace Sys2Proof.Machine

/-- A read after words were stored at consecutive addresses: the word of its place among them, else as before. -/
theorem read_storeWords (ws : List Word) (m : Memory) (a b : Nat) :
    (storeWords m a ws).read b
      = if a ≤ b ∧ b - a < ws.length then ws.getD (b - a) 0x0000#16 else m.read b := by
  induction ws generalizing m a with
  | nil => simp
  | cons w ws ih =>
    rw [storeWords_cons, ih, Memory.read_write]
    obtain hlt | rfl | hgt := Nat.lt_trichotomy b a
    · rw [if_neg (by omega), if_neg (by omega), if_neg (by omega)]
    · simp
    · have hplace : b - a = b - (a + 1) + 1 := by omega
      rw [if_neg hgt.ne', hplace, List.getD_cons_succ, List.length_cons]
      exact if_congr (by omega) rfl rfl

/-- The image load places word i at origin + i, for the first `0xFFFF - origin` words (R145). -/
theorem read_loadImage (m : Memory) (origin : Word) (words : List Word) (b : Nat) :
    (loadImage m origin words).read b
      = if origin.toNat ≤ b ∧ b - origin.toNat < min words.length (0xFFFF - origin.toNat)
        then words.getD (b - origin.toNat) 0x0000#16 else m.read b := by
  rw [loadImage, read_storeWords, List.length_take, min_comm]
  split_ifs with hin
  · have htake : b - origin.toNat < 0xFFFF - origin.toNat := (lt_min_iff.mp hin.2).2
    simp [htake]
  · rfl

/-- Loaded into zeroed memory, an image shows its words up to address 0xFFFE, and 0 where it has none. -/
theorem read_loadImage_nil (origin : Word) (words : List Word) (b : Nat) :
    (loadImage [] origin words).read b
      = if b < 0xFFFF ∧ origin.toNat ≤ b then words.getD (b - origin.toNat) 0x0000#16 else 0x0000#16 := by
  rw [read_loadImage]
  by_cases hpast : words.length ≤ b - origin.toNat
  · rw [List.getD_eq_default _ _ hpast, if_neg (by omega), ite_self]
    rfl
  · exact if_congr (by omega) rfl rfl

/-- An image of two bytes or more boots: its first two bytes are the origin, the rest its words (R144). -/
theorem boot_of_origin (p : Params) (input : List Byte) (draws : List Bool) (b0 b1 : Byte) (bytes : List Byte) :
    boot p input draws (some (b0 :: b1 :: bytes))
      = .next (((State.start p).setConsole ⟨input, draws, 0, [], .raw⟩).setMem
          (loadImage [] (b0 ++ b1) (wordsOfBytes bytes))) := rfl

/-- Settles O54: the fields are those of `State.start`, the memory is that of the image load. -/
theorem stateAtTheFirstFetch : Obligations.StateAtTheFirstFetch := by
  intro p input draws b0 b1 bytes
  refine ⟨_, boot_of_origin p input draws b0 b1 bytes, rfl, rfl, rfl, rfl, rfl, rfl, rfl, fun _ => rfl, fun a => ?_⟩
  exact read_loadImage_nil (b0 ++ b1) (wordsOfBytes bytes) a.toNat

end Sys2Proof.Machine
end

section
/-! SUPPORT. The footprint of every instruction (10_state.md R118, R120, R123, R128, O46, O47, O48, O44): what it may
write, by the tables of Safety. Each operation keeps to the footprint of an instruction whose tables list what the
operation writes; the arms of `exec` are chains of such operations. -/

namespace Sys2Proof.Machine

/-- The instructions that change the run state (R128): TRAP HALT, and the term `trap` with its vector. -/
def writesRun : Instr → Bool
  | .halt => true
  | .trap _ vect8 => vect8 == Config.vectHalt
  | _ => false

/-- `t` differs from `s` in no register, flag, pc or run state that the tables do not give the instruction. -/
structure Footprint (i : Instr) (s t : State) : Prop where
  regs : sameRegsBut (regsWritten i) s t
  cond : writesCond i = false → t.cond = s.cond
  pc : writesPc i = false → t.pc = s.pc
  run : writesRun i = false → t.run = s.run

namespace Footprint

theorem refl (i : Instr) (s : State) : Footprint i s s := ⟨fun _ _ => rfl, fun _ => rfl, fun _ => rfl, fun _ => rfl⟩

variable {i : Instr} {s t : State} (h : Footprint i s t)
include h

/-! ### Operations that write none of the four -/

theorem of_same {u : State} (hregs : u.regs = t.regs) (hcond : u.cond = t.cond) (hpc : u.pc = t.pc)
    (hrun : u.run = t.run) : Footprint i s u where
  regs r hr := by rw [← h.regs r hr, readReg, readReg, hregs]
  cond hi := hcond.trans (h.cond hi)
  pc hi := hpc.trans (h.pc hi)
  run hi := hrun.trans (h.run hi)

theorem setService (v : Option Service) : Footprint i s (t.setService v) := h.of_same rfl rfl rfl rfl
theorem setConsole (v : Console) : Footprint i s (t.setConsole v) := h.of_same rfl rfl rfl rfl
theorem writeChars (bs : List Byte) : Footprint i s (writeChars t bs) := h.of_same rfl rfl rfl rfl
theorem memWrite (a v : Word) : Footprint i s (memWrite t a v) := h.of_same rfl rfl rfl rfl
theorem memReadState (a : Word) : Footprint i s (memReadState t a) :=
  h.of_same (memReadState_regs t a) (memReadState_cond t a) (memReadState_pc t a) (memReadState_run t a)

/-! ### Operations that write one of the four, for an instruction whose tables list it -/

theorem setPc (hpc : writesPc i = true) (v : Word) : Footprint i s (t.setPc v) :=
  ⟨h.regs, h.cond, fun hi => absurd hpc (by simp [hi]), h.run⟩

theorem writeReg {d : Reg} (hd : d ∈ regsWritten i) (v : Word) : Footprint i s (writeReg t d v) where
  regs r hr := by
    have hrd : r ≠ d := fun e => hr (e ▸ hd)
    rw [readReg_writeReg_other t v hrd, h.regs r hr]
  cond := h.cond
  pc := h.pc
  run := h.run

theorem linkR7 (h7 : 7 ∈ regsWritten i) : Footprint i s (linkR7 t) := h.writeReg h7 t.pc

theorem setcc (hcond : writesCond i = true) (v : Word) : Footprint i s (setcc t v) :=
  ⟨h.regs, fun hi => absurd hcond (by simp [hi]), h.pc, h.run⟩

theorem writeResult {d : Reg} (hd : d ∈ regsWritten i) (hcond : writesCond i = true) (v : Word) :
    Footprint i s (writeResult t d v) := (h.writeReg hd v).setcc hcond v

theorem loadInto {d : Reg} (hd : d ∈ regsWritten i) (hcond : writesCond i = true) (ea : Word) :
    Footprint i s (loadInto t d ea) := (h.memReadState ea).writeResult hd hcond _

/-! ### The trap services (43_trap.md) -/

theorem serviceGetc (h0 : 0 ∈ regsWritten i) (hcond : writesCond i = true) : Footprint i s (serviceGetc t) := by
  obtain ⟨-, e⟩ | ⟨c, _, -, e⟩ := serviceGetc_cases t <;> rw [e]
  · exact h.setService _
  · exact (h.setConsole _).writeResult h0 hcond _

theorem serviceInRead (h0 : 0 ∈ regsWritten i) (hcond : writesCond i = true) : Footprint i s (serviceInRead t) := by
  obtain ⟨-, e⟩ | ⟨c, _, -, e⟩ := serviceInRead_cases t <;> rw [e]
  · exact h.setService _
  · exact ((h.setConsole _).writeChars _).writeResult h0 hcond _

theorem serviceIn (h0 : 0 ∈ regsWritten i) (hcond : writesCond i = true) : Footprint i s (serviceIn t) :=
  (h.writeChars _).serviceInRead h0 hcond

theorem serviceOut : Footprint i s (serviceOut t) := h.writeChars _
theorem servicePuts (a : Word) : Footprint i s (servicePuts a t) := (h.writeChars _).setService _
theorem servicePutsp (a : Word) : Footprint i s (servicePutsp a t) := (h.writeChars _).setService _

theorem serviceHalt (hrun : writesRun i = true) : Footprint i s (serviceHalt t) :=
  ⟨h.regs, h.cond, h.pc, fun hi => absurd hrun (by simp [hi])⟩

end Footprint

/-! ### Every instruction -/

/-- The next state that a result answers, if it answers one, keeps to the footprint of the instruction. -/
def KeepsFootprint (i : Instr) (s : State) (r : Result) : Prop := ∀ t, r = .next t → Footprint i s t

namespace KeepsFootprint

theorem next {i : Instr} {s t : State} (h : Footprint i s t) : KeepsFootprint i s (.next t) := by
  rintro _ ⟨⟩
  exact h

theorem fault (i : Instr) (s : State) (f : Fault) : KeepsFootprint i s (.fault f) := nofun

end KeepsFootprint

/-- TRAP with any vector: the footprint of `trap` is that of the service its vector selects. -/
theorem execTrap_keepsFootprint (low4 : BitVec 4) (vect8 : BitVec 8) (s : State) :
    KeepsFootprint (.trap low4 vect8) s (execTrap low4 vect8 s) := by
  have hlink : Footprint (.trap low4 vect8) s (linkR7 s) :=
    (Footprint.refl _ s).linkR7 (by rw [regsWritten]; split <;> decide)
  unfold execTrap
  split_ifs with hgetc hout hputs hin hputsp hhalt
  · exact .next (hlink.serviceGetc (by simp [regsWritten, hgetc]) (by simp [writesCond, hgetc]))
  · exact .next hlink.serviceOut
  · exact .next (hlink.servicePuts _)
  · exact .next (hlink.serviceIn (by simp [regsWritten, hin]) (by simp [writesCond, hin]))
  · exact .next (hlink.servicePutsp _)
  · exact .next (hlink.serviceHalt (by simp [writesRun, hhalt]))
  · exact .fault _ _ _

theorem exec_keepsFootprint (i : Instr) (s : State) : KeepsFootprint i s (exec i s) := by
  have h := Footprint.refl i s
  cases i with
  | addReg dr _ _ | addImm dr _ _ | andReg dr _ _ | andImm dr _ _ | not dr _ | lea dr _ =>
    exact .next (h.writeResult (List.mem_singleton_self dr) rfl _)
  | br nzp off9 =>
    refine .next ?_
    split
    · exact h.setPc rfl _
    · exact h
  | nop _ => exact .next h
  | jmp _ | ret => exact .next (h.setPc rfl _)
  | jsr _ | jsrr _ => exact .next ((h.linkR7 (List.mem_singleton_self 7)).setPc rfl _)
  | ld dr _ | ldr dr _ _ => exact .next (h.loadInto (List.mem_singleton_self dr) rfl _)
  | ldi dr _ => exact .next ((h.memReadState _).loadInto (List.mem_singleton_self dr) rfl _)
  | st _ _ | str _ _ _ => exact .next (h.memWrite _ _)
  | sti _ _ => exact .next ((h.memReadState _).memWrite _ _)
  | res8 _ | res13 _ => exact .fault _ _ _
  | trap low4 vect8 => exact execTrap_keepsFootprint low4 vect8 s
  | getc => exact .next ((h.linkR7 (by decide)).serviceGetc (by decide) rfl)
  | out => exact .next (h.linkR7 (by decide)).serviceOut
  | puts => exact .next ((h.linkR7 (by decide)).servicePuts _)
  | inChar => exact .next ((h.linkR7 (by decide)).serviceIn (by decide) rfl)
  | putsp => exact .next ((h.linkR7 (by decide)).servicePutsp _)
  | halt => exact .next ((h.linkR7 (by decide)).serviceHalt rfl)

theorem exec_footprint {i : Instr} {s t : State} (h : exec i s = .next t) : Footprint i s t :=
  exec_keepsFootprint i s t h

/-- Settles O46, by the footprint. -/
theorem onlyListedRegistersAreWritten : Obligations.OnlyListedRegistersAreWritten :=
  fun _ _ _ h => (exec_footprint h).regs

/-- Settles O47, by the footprint. -/
theorem onlyListedInstructionsSetTheFlag : Obligations.OnlyListedInstructionsSetTheFlag :=
  fun _ _ _ h => (exec_footprint h).cond

/-- Settles O48, by the footprint. -/
theorem onlyListedInstructionsChangePc : Obligations.OnlyListedInstructionsChangePc :=
  fun _ _ _ h => (exec_footprint h).pc

end Sys2Proof.Machine
end

section
/-! SUPPORT. HALTED is final, and only TRAP HALT enters it (10_state.md R128, 43_trap.md R189, O44). -/

namespace Sys2Proof.Machine

/-! ### The words that change the run state -/

/-- A choice between two instructions, neither of which changes the run state. -/
theorem writesRun_ite {c : Prop} [Decidable c] {i j : Instr} (hi : writesRun i = false) (hj : writesRun j = false) :
    writesRun (if c then i else j) = false := by
  split <;> assumption

/-- No opcode but TRAP's decodes to an instruction that changes the run state. Five opcodes choose between two
instructions (BR, ADD, JSR, AND, JMP); the last arm of `decode` stands for opcode 15 alone. -/
theorem writesRun_decode_of_not_trap {w : Word} (h : opcodeOf w ≠ 0xF#4) : writesRun (decode w) = false := by
  have hlt : (opcodeOf w).toNat < 16 := (opcodeOf w).isLt
  have hne : (opcodeOf w).toNat ≠ 15 := fun e => h (BitVec.eq_of_toNat_eq e)
  unfold decode
  split
  case h_1 | h_2 | h_5 | h_6 | h_13 => exact writesRun_ite rfl rfl
  case h_16 =>
    simp only [imp_false] at *
    omega
  all_goals rfl

theorem decode_of_trap {w : Word} (h : opcodeOf w = 0xF#4) : decode w = decodeTrap w := by simp [decode, h]

/-- Among the TRAPs only the vector of HALT changes the run state. -/
theorem vect8Of_of_writesRun_decodeTrap {w : Word} (h : writesRun (decodeTrap w) = true) :
    vect8Of w = Config.vectHalt := by
  by_contra hne
  revert h
  unfold decodeTrap
  split_ifs <;> simp [writesRun, hne]

/-- A word whose instruction changes the run state is a TRAP with the vector of HALT (R159). -/
theorem of_writesRun_decode {w : Word} (h : writesRun (decode w) = true) :
    opcodeOf w = 0xF#4 ∧ vect8Of w = Config.vectHalt := by
  have hop : opcodeOf w = 0xF#4 := by
    by_contra hne
    simp [writesRun_decode_of_not_trap hne] at h
  rw [decode_of_trap hop] at h
  exact ⟨hop, vect8Of_of_writesRun_decodeTrap h⟩

/-! ### What goes on without a change of the run state -/

/-- A service in progress goes on in the same run state: only HALT, which never waits, ends a run (R205). -/
theorem resume_run (v : Service) (s : State) : (resume v s).run = s.run := by
  cases v with
  | getc => exact (((Footprint.refl .getc s).setService none).serviceGetc (by decide) rfl).run rfl
  | inChar => exact (((Footprint.refl .inChar s).setService none).serviceInRead (by decide) rfl).run rfl
  | puts a => rfl
  | putsp a => rfl

theorem kbsrPoll_setStop (s : State) (v : Option StopRequest) :
    kbsrPoll (s.setStop v) = (kbsrPoll s).setStop v := by
  simp only [kbsrPoll, setStop_console]
  cases s.console.input with
  | nil => rfl
  | cons c rest =>
    exact (apply_ite (State.setStop · v) (pollAnswer s.console = true) (pollFound s c) (pollEmpty s)).symm

/-- The stop request plays no part in a `MemRead`. -/
theorem memReadState_setStop (s : State) (v : Option StopRequest) (a : Word) :
    memReadState (s.setStop v) a = (memReadState s a).setStop v := by
  obtain ⟨hkbsr, h⟩ | ⟨hplain, h⟩ := memReadState_cases s a
  · rw [h, memReadState_kbsr (s := s.setStop v) hkbsr, kbsrPoll_setStop]
  · rw [h, memReadState_plain (s := s.setStop v) hplain]

theorem fetch_fst_setStop (s : State) (v : Option StopRequest) : (fetch (s.setStop v)).1 = (fetch s).1 := by
  simp [memReadState_setStop]

theorem fetch_run (s : State) : (fetch s).2.run = s.run := by simp [fetch_snd]

/-- HALTED stays for any number of steps. -/
theorem run_halted {s : State} (h : s.run = .halted) (k : Nat) : core.run k s = .next s := by
  induction k with
  | zero => exact run_zero s
  | succ k ih => rw [run_succ_next k (step_halted h), ih]

/-- A RUNNING machine that advances to HALTED had no service in progress and fetched a TRAP HALT. -/
theorem advance_halts {s t : State} (hrun : s.run = .running) (h : advance s = .next t) (ht : t.run = .halted) :
    s.service = none ∧ opcodeOf (fetch s).1 = 0xF#4 ∧ vect8Of (fetch s).1 = Config.vectHalt := by
  obtain ⟨v, -, rfl⟩ | ⟨hv, hexec⟩ := advance_cases h
  · rw [resume_run, hrun] at ht
    cases ht
  · refine ⟨hv, of_writesRun_decode ?_⟩
    by_contra hw
    have hsame := (exec_footprint hexec).run (Bool.eq_false_of_not_eq_true hw)
    rw [fetch_run, hrun, ht] at hsame
    cases hsame

/-- Settles O44: HALTED by induction on the steps, the entry by the footprint of the fetched instruction. -/
theorem haltedIsFinalAndOnlyTrapHaltHalts : Obligations.HaltedIsFinalAndOnlyTrapHaltHalts := by
  refine ⟨fun s h k => run_halted h k, fun s t hrun hstep ht => ?_⟩
  obtain ⟨hhalt, -⟩ | ⟨-, stop', -, hadv⟩ := step_cases hstep
  · rw [hrun] at hhalt
    cases hhalt
  · rw [← fetch_fst_setStop s stop']
    exact advance_halts (s := s.setStop stop') hrun hadv ht

end Sys2Proof.Machine
end

section
/-! SUPPORT. The accesses to memory: the store (20_memory.md R136, O9), `MemRead` (R134, O10) and the keyboard poll it
makes at KBSR_ADDR (R135, O11). -/

namespace Sys2Proof.Machine

/-- A store to any address is the state with that one word changed; the device words are no exception (R136). -/
theorem storedAt_memWrite (s : State) (a v : Word) : storedAt a v s (memWrite s a v) :=
  ⟨rawRead_memWrite_same s a v, fun _ hb => rawRead_memWrite_other s v hb, fun _ _ => rfl, rfl, rfl, rfl,
    rfl, rfl, rfl, rfl⟩

/-- Settles O9, by what a store changes. -/
theorem storeSetsOneWord : Obligations.StoreSetsOneWord := storedAt_memWrite

theorem memRead_plain {s : State} {a : Word} (h : a ≠ s.params.kbsrAddr) : memRead s a = (rawRead s a, s) := by
  rw [memRead, memReadState_plain h]

theorem memRead_kbsr {s : State} {a : Word} (h : a = s.params.kbsrAddr) :
    memRead s a = (rawRead (kbsrPoll s) a, kbsrPoll s) := by
  rw [memRead, memReadState_kbsr h]

/-- Settles O10: the two cases of `memReadState`. -/
theorem memReadRule : Obligations.MemReadRule := fun _ _ => ⟨memRead_plain, memRead_kbsr⟩

/-! ### The keyboard poll -/

/-- The law of R205 for the free draw. -/
theorem pollAnswer_iff (c : Console) : pollAnswer c = true ↔ c.input ≠ [] ∧ drawOf c = true := by
  simp [pollAnswer, and_comm]

/-- A poll uses up its draw, and consumes a byte exactly if it finds one. -/
theorem kbsrPoll_console (s : State) :
    (kbsrPoll s).console = { s.console with
      input := if pollAnswer s.console then s.console.input.tail else s.console.input,
      draws := s.console.draws.tail, polls := s.console.polls + 1 } := by
  obtain ⟨c, rest, -, hfound, hpoll⟩ | ⟨hempty, hpoll⟩ := kbsrPoll_cases s
  · rw [hpoll, hfound]
    rfl
  · rw [hpoll, hempty]
    rfl

/-- A poll writes no word but the two device words. -/
theorem rawRead_kbsrPoll_other {s : State} {a : Word} (hkbsr : a ≠ s.params.kbsrAddr)
    (hkbdr : a ≠ s.params.kbdrAddr) : rawRead (kbsrPoll s) a = rawRead s a := by
  obtain ⟨c, rest, -, -, hpoll⟩ | ⟨-, hpoll⟩ := kbsrPoll_cases s
  · rw [hpoll, pollFound, rawRead_memWrite_other _ _ hkbdr, rawRead_memWrite_other _ _ hkbsr, rawRead_setConsole]
  · rw [hpoll, pollEmpty, rawRead_memWrite_other _ _ hkbsr, rawRead_setConsole]

theorem polled_kbsrPoll (s : State) : polled s (kbsrPoll s) :=
  ⟨fun r _ => by rw [readReg, readReg, kbsrPoll_regs], kbsrPoll_pc s, kbsrPoll_cond s,
    ⟨kbsrPoll_run s, kbsrPoll_service s, kbsrPoll_stop s, kbsrPoll_params s⟩, kbsrPoll_console s,
    fun _ => rawRead_kbsrPoll_other⟩

/-- A poll that finds a character leaves it in KBDR. -/
theorem rawRead_kbsrPoll_kbdr_found {s : State} {c : Byte} {rest : List Byte} (hinput : s.console.input = c :: rest)
    (hfound : pollAnswer s.console = true) : rawRead (kbsrPoll s) s.params.kbdrAddr = zext8 c := by
  have hpoll : kbsrPoll s = pollFound s c := by simp [kbsrPoll, hinput, hfound]
  rw [hpoll, pollFound, rawRead_memWrite_same]

/-- A poll that finds none leaves KBDR, which is not the status word it writes. -/
theorem rawRead_kbsrPoll_kbdr_empty {s : State} (hne : s.params.kbsrAddr ≠ s.params.kbdrAddr)
    (hempty : pollAnswer s.console = false) :
    rawRead (kbsrPoll s) s.params.kbdrAddr = rawRead s s.params.kbdrAddr := by
  obtain ⟨-, -, -, hfound, -⟩ | ⟨-, hpoll⟩ := kbsrPoll_cases s
  · simp [hempty] at hfound
  · rw [hpoll, pollEmpty, rawRead_memWrite_other _ _ hne.symm, rawRead_setConsole]

/-- Settles O11: the frame, the law of the draw, and the two device words by the poll's answer. -/
theorem keyboardPollRule : Obligations.KeyboardPollRule := by
  intro s hne
  have hkbsr := rawRead_kbsrPoll_kbsr hne
  refine ⟨polled_kbsrPoll s, pollAnswer_iff s.console, fun c rest hinput hfound => ⟨?_, ?_⟩, fun hempty => ⟨?_, ?_⟩⟩
  · rw [hkbsr, if_pos hfound]
  · exact rawRead_kbsrPoll_kbdr_found hinput hfound
  · rw [hkbsr, hempty]
    rfl
  · exact rawRead_kbsrPoll_kbdr_empty hne hempty

end Sys2Proof.Machine
end

section
/-! SUPPORT. A store to the word at the incremented pc is what the next step runs (20_memory.md R146, R149, O30). -/

namespace Sys2Proof.Machine

/-- ST, STI and STR end in one store of SR, to the address `memStore` gives. What comes before it, at most the pointer
read of STI, leaves pc and the parameters. -/
theorem exec_store {i : Instr} {sr : Reg} {s t : State} {a : Word}
    (hi : (∃ off9, i = .st sr off9) ∨ (∃ off9, i = .sti sr off9) ∨ ∃ base off6, i = .str sr base off6)
    (ha : memStore s i = some a) (h : exec i s = .next t) :
    ∃ u, u.pc = s.pc ∧ u.params = s.params ∧ t = memWrite u a (readReg s sr) := by
  obtain ⟨off9, rfl⟩ | ⟨off9, rfl⟩ | ⟨base, off6, rfl⟩ := hi <;> cases ha <;> cases h
  · exact ⟨s, rfl, rfl, rfl⟩
  · refine ⟨memReadState s (pcRel s off9), memReadState_pc s _, memReadState_params s _, ?_⟩
    rw [indirect, memRead_snd, readReg_memReadState]
  · exact ⟨s, rfl, rfl, rfl⟩

/-- The fetch from a word just stored gives that word. It does not poll if pc is not KBSR_ADDR. -/
theorem fetch_memWrite_pc {u : State} (h : u.pc ≠ u.params.kbsrAddr) (v : Word) :
    fetch (memWrite u u.pc v) = (v, (memWrite u u.pc v).setPc (u.pc + 1#16)) := by
  have hread : memRead (memWrite u u.pc v) u.pc = (v, memWrite u u.pc v) := by
    rw [memRead_plain (s := memWrite u u.pc v) h, rawRead_memWrite_same]
  rw [fetch, memWrite_pc, hread, memWrite_pc]

/-- Settles O30: the instruction ends in its store, and the fetch from the word stored gives it. -/
theorem storeIsSeenByTheNextFetch : Obligations.StoreIsSeenByTheNextFetch := by
  intro i sr s t hi ha hne h
  obtain ⟨u, hpc, hparams, rfl⟩ := exec_store hi ha h
  rw [← hpc] at hne ⊢
  have hfetch := fetch_memWrite_pc (hparams ▸ hne) (readReg s sr)
  refine ⟨by rw [hfetch], by rw [hfetch, setPc_pc], fun hready => ?_⟩
  rw [step_ready hready, hfetch]

end Sys2Proof.Machine
end

section
/-! SUPPORT. The words of memory an instruction may change (20_memory.md R138, R141, O49): the one it stores to and,
where it reads KBSR, the two device words. The accesses among the operations keep to them; all other operations
leave memory. -/

namespace Sys2Proof.Machine

/-- `t` differs from `s` in no word of memory that R138 does not let the instruction change. -/
def MemFootprint (i : Instr) (s t : State) : Prop :=
  ∀ a : Word, memStore s i ≠ some a →
    (s.params.kbsrAddr ∈ memReads s i → a ≠ s.params.kbsrAddr ∧ a ≠ s.params.kbdrAddr) → rawRead t a = rawRead s a

namespace MemFootprint

theorem refl (i : Instr) (s : State) : MemFootprint i s s := fun _ _ _ => rfl

theorem of_mem {i : Instr} {s t : State} (h : t.mem = s.mem) : MemFootprint i s t := fun a _ _ => rawRead_congr h a

variable {i : Instr} {s t : State} (h : MemFootprint i s t)
include h

theorem writeResult (r : Reg) (v : Word) : MemFootprint i s (writeResult t r v) := h

theorem memWrite {ea : Word} (hea : memStore s i = some ea) (v : Word) : MemFootprint i s (memWrite t ea v) := by
  intro a hstore hdev
  have hne : a ≠ ea := fun e => hstore (e ▸ hea)
  rw [rawRead_memWrite_other t v hne, h a hstore hdev]

/-- A `MemRead` of the instruction's list polls only if it is of KBSR_ADDR. -/
theorem memReadState {ea : Word} (hea : ea ∈ memReads s i) (hparams : t.params = s.params) :
    MemFootprint i s (memReadState t ea) := by
  intro a hstore hdev
  obtain ⟨hkbsr, hstate⟩ | ⟨-, hstate⟩ := memReadState_cases t ea <;> rw [hstate]
  · rw [hparams] at hkbsr
    obtain ⟨hne, hne'⟩ := hdev (hkbsr ▸ hea)
    rw [← hparams] at hne hne'
    rw [rawRead_kbsrPoll_other hne hne', h a hstore hdev]
  · exact h a hstore hdev

theorem loadInto {ea : Word} (hea : ea ∈ memReads s i) (hparams : t.params = s.params) (dr : Reg) :
    MemFootprint i s (loadInto t dr ea) := (h.memReadState hea hparams).writeResult dr _

end MemFootprint

/-! ### The trap services leave memory (43_trap.md) -/

theorem serviceGetc_mem (s : State) : (serviceGetc s).mem = s.mem := by
  obtain ⟨-, h⟩ | ⟨c, _, -, h⟩ := serviceGetc_cases s <;> rw [h] <;> rfl

theorem serviceInRead_mem (s : State) : (serviceInRead s).mem = s.mem := by
  obtain ⟨-, h⟩ | ⟨c, _, -, h⟩ := serviceInRead_cases s <;> rw [h] <;> rfl

theorem serviceIn_mem (s : State) : (serviceIn s).mem = s.mem := serviceInRead_mem _

/-- TRAP with any vector that answers a next state. -/
theorem execTrap_mem {low4 : BitVec 4} {vect8 : BitVec 8} {s t : State} (h : execTrap low4 vect8 s = .next t) :
    t.mem = s.mem := by
  unfold execTrap at h
  split_ifs at h with hgetc hout hputs hin hputsp hhalt <;> cases h
  · exact serviceGetc_mem _
  · rfl
  · rfl
  · exact serviceIn_mem _
  · rfl
  · rfl

/-! ### Every instruction -/

theorem exec_memFootprint {i : Instr} {s t : State} (h : exec i s = .next t) : MemFootprint i s t := by
  have hrefl := MemFootprint.refl i s
  cases i with
  | trap low4 vect8 => exact .of_mem (execTrap_mem h)
  | br nzp off9 =>
    cases h
    split <;> exact .of_mem rfl
  | ld dr _ | ldr dr _ _ =>
    cases h
    exact hrefl.loadInto (List.mem_singleton_self _) rfl dr
  | ldi dr off9 =>
    cases h
    have hpointer := hrefl.memReadState (ea := pcRel s off9) List.mem_cons_self rfl
    exact hpointer.loadInto (List.mem_cons_of_mem _ (List.mem_singleton_self _)) (memReadState_params s _) dr
  | st _ _ | str _ _ _ =>
    cases h
    exact hrefl.memWrite rfl _
  | sti _ _ =>
    cases h
    exact (hrefl.memReadState (List.mem_singleton_self _) rfl).memWrite rfl _
  | getc =>
    cases h
    exact .of_mem (serviceGetc_mem _)
  | inChar =>
    cases h
    exact .of_mem (serviceIn_mem _)
  | res8 _ | res13 _ => cases h
  | addReg | addImm | andReg | andImm | not | lea | nop | jmp | ret | jsr | jsrr | out | puts | putsp | halt =>
    cases h
    exact .of_mem rfl

/-- Settles O49, by the footprint. -/
theorem onlyListedAccessesChangeMemory : Obligations.OnlyListedAccessesChangeMemory :=
  fun _ _ _ h => exec_memFootprint h

end Sys2Proof.Machine
end

section
/-! SUPPORT. The image load and the images that do not boot (20_memory.md R144, R145, 60_exceptions.md R196, O56,
O57). -/

namespace Sys2Proof.Machine

/-- Settles O56, by a read after the image load. -/
theorem imageLoadPlacesTheWords : Obligations.ImageLoadPlacesTheWords :=
  fun m origin words a => read_loadImage m origin words a.toNat

/-- Bytes too few for an origin hold no word (R144). -/
theorem boot_of_short (p : Params) (input : List Byte) (draws : List Bool) {bytes : List Byte}
    (h : bytes.length < 2) : boot p input draws (some bytes) = .fault (.startupError .noOrigin) := by
  match bytes with
  | [] | [_] => rfl
  | _ :: _ :: _ => simp at h

theorem boot_of_two_le (p : Params) (input : List Byte) (draws : List Bool) {bytes : List Byte}
    (h : 2 ≤ bytes.length) : ∃ s, boot p input draws (some bytes) = .next s := by
  match bytes with
  | [] | [_] => simp at h
  | b0 :: b1 :: bytes => exact ⟨_, boot_of_origin p input draws b0 b1 bytes⟩

/-- Settles O57, by the number of the image's bytes. -/
theorem startupErrorExactlyWithoutAnOrigin : Obligations.StartupErrorExactlyWithoutAnOrigin :=
  fun p input draws => ⟨rfl, fun _ => ⟨boot_of_short p input draws, boot_of_two_le p input draws⟩⟩

end Sys2Proof.Machine
end

section
/-! SUPPORT. The fields of a word (30_encoding.md R152, R154): words that agree on a mask agree on every field in it,
and a word is the packing of its fields. The laws of Laws/Encode.lean go the other way. -/

namespace Sys2Proof

/-! ### Words that agree on a mask -/

/-- Words that agree on a mask agree on every mask contained in it. -/
theorem and_congr_of_subset {u w mask sub : Word} (h : u &&& mask = w &&& mask) (hsub : sub &&& mask = sub) :
    u &&& sub = w &&& sub := by
  rw [← hsub, BitVec.and_comm sub, ← BitVec.and_assoc, h, BitVec.and_assoc]

/-- Outside a mask any two values agree on it. -/
theorem and_congr_of_zero {n : Nat} {mask : BitVec n} (hmask : mask = 0#n) (u w : BitVec n) :
    u &&& mask = w &&& mask := by
  rw [hmask, BitVec.and_zero, BitVec.and_zero]

section
variable {u w mask : Word} (h : u &&& mask = w &&& mask)
include h

theorem extractLsb'_congr (lo len : Nat) (hmask : mask.extractLsb' lo len = BitVec.allOnes len) :
    u.extractLsb' lo len = w.extractLsb' lo len := by
  have hfields := congrArg (BitVec.extractLsb' lo len) h
  rwa [BitVec.extractLsb'_and, BitVec.extractLsb'_and, hmask, BitVec.and_allOnes, BitVec.and_allOnes] at hfields

theorem getLsbD_congr (k : Nat) (hmask : mask.getLsbD k = true) : u.getLsbD k = w.getLsbD k := by
  have hbits := congrArg (BitVec.getLsbD · k) h
  rwa [BitVec.getLsbD_and, BitVec.getLsbD_and, hmask, Bool.and_true, Bool.and_true] at hbits

theorem opcodeOf_congr (hmask : opcodeOf mask = 0xF#4) : opcodeOf u = opcodeOf w := extractLsb'_congr h 12 4 hmask
theorem reg11_congr (hmask : nzpOf mask = 7#3) : reg11 u = reg11 w :=
  congrArg BitVec.toFin (extractLsb'_congr h 9 3 hmask)
theorem reg8_congr (hmask : regBits (reg8 mask) = 7#3) : reg8 u = reg8 w :=
  congrArg BitVec.toFin (extractLsb'_congr h 6 3 hmask)
theorem reg2_congr (hmask : regBits (reg2 mask) = 7#3) : reg2 u = reg2 w :=
  congrArg BitVec.toFin (extractLsb'_congr h 0 3 hmask)
theorem vect8Of_congr (hmask : vect8Of mask = 0xFF#8) : vect8Of u = vect8Of w := extractLsb'_congr h 0 8 hmask
theorem modeImm_congr (hmask : modeImm mask = true) : modeImm u = modeImm w := getLsbD_congr h 5 hmask
theorem modeJsr_congr (hmask : modeJsr mask = true) : modeJsr u = modeJsr w := getLsbD_congr h 11 hmask

end

/-! ### A word is the packing of its fields -/

@[simp] theorem regBits_reg11 (w : Word) : regBits (reg11 w) = nzpOf w := rfl
@[simp] theorem regBits_reg8 (w : Word) : regBits (reg8 w) = w.extractLsb' 6 3 := rfl
@[simp] theorem regBits_reg2 (w : Word) : regBits (reg2 w) = w.extractLsb' 0 3 := rfl

section
variable {w : Word} {op : BitVec 4} (hop : opcodeOf w = op)
include hop

theorem pack336_fields : pack336 op (nzpOf w) (regBits (reg8 w)) (off6Of w) = w := by
  subst hop
  simp only [pack336, place, opcodeOf, off6Of, nzpOf, regBits_reg8]; ext i hi
  interval_cases i <;> simp

theorem pack39_fields : pack39 op (nzpOf w) (off9Of w) = w := by
  subst hop
  simp only [pack39, place, opcodeOf, nzpOf, off9Of]; ext i hi
  interval_cases i <;> simp

theorem pack48_fields : pack48 op (low4Of w) (vect8Of w) = w := by
  subst hop
  simp only [pack48, place, opcodeOf, low4Of, vect8Of]; ext i hi
  interval_cases i <;> simp

theorem pack12_fields : pack12 op (low12Of w) = w := by
  subst hop
  simp only [pack12, place, opcodeOf, low12Of]; ext i hi
  interval_cases i <;> simp

theorem pack111_fields (hmode : modeJsr w = true) : pack111 op 1#1 (off11Of w) = w := by
  subst hop
  rw [modeJsr, BitVec.getLsbD_eq_getElem (by decide)] at hmode
  simp only [pack111, place, opcodeOf, off11Of]; ext i hi
  interval_cases i <;> simp [hmode]

end

/-- The bits of JSRR's unused field that its row reads are the mode bit alone. -/
theorem nzpOf_and_of_modeJsr {w : Word} (h : modeJsr w = false) : nzpOf w &&& 0b100#3 = 0#3 := by
  rw [modeJsr, BitVec.getLsbD_eq_getElem (by decide)] at h
  simp only [nzpOf]; ext i hi
  interval_cases i <;> simp [h]

/-- The low 6 bits in immediate mode are the mode bit and imm5. -/
theorem lowImm_imm5Of {w : Word} (h : modeImm w = true) : lowImm (imm5Of w) = off6Of w := by
  rw [modeImm, BitVec.getLsbD_eq_getElem (by decide)] at h
  simp only [lowImm, imm5Of, off6Of]; ext i hi
  interval_cases i <;> simp [h]

/-- The low 6 bits in register mode are the mode bit, two ignored bits and SR2. -/
theorem lowReg_reg2 {w : Word} (h : modeImm w = false) : lowReg (reg2 w) = off6Of w &&& 0b100111#6 := by
  rw [modeImm, BitVec.getLsbD_eq_getElem (by decide)] at h
  simp only [lowReg, off6Of, regBits_reg2]; ext i hi
  interval_cases i <;> simp [h]

/-! ### A masked packing is the packing of the masked fields -/

theorem place_and {n : Nat} (v : BitVec n) (k : Nat) (mask : Word) :
    place v k &&& mask = place (v &&& mask.extractLsb' k n) k := by
  ext i hi
  by_cases hk : i < k
  · simp [place, hk]
  · by_cases hn : i - k < n
    · have hback : k + (i - k) = i := by omega
      simp [place, hk, hn, hback, BitVec.getLsbD_eq_getElem hi]
    · simp [place, hk, BitVec.getLsbD_of_ge v (i - k) (by omega)]

theorem pack336_and (op : BitVec 4) (a b : BitVec 3) (c : BitVec 6) (mask : Word) :
    pack336 op a b c &&& mask
      = pack336 (op &&& opcodeOf mask) (a &&& nzpOf mask) (b &&& regBits (reg8 mask)) (c &&& off6Of mask) := by
  simp only [pack336, BitVec.and_or_distrib_right, place_and]; rfl

theorem pack48_and (op a : BitVec 4) (c : BitVec 8) (mask : Word) :
    pack48 op a c &&& mask = pack48 (op &&& opcodeOf mask) (a &&& low4Of mask) (c &&& vect8Of mask) := by
  simp only [pack48, BitVec.and_or_distrib_right, place_and]; rfl

/-- A packing agrees with a word on a mask if each field does. -/
theorem pack336_congr {w mask : Word} {op : BitVec 4} {a b : BitVec 3} {c : BitVec 6} (hop : opcodeOf w = op)
    (ha : a &&& nzpOf mask = nzpOf w &&& nzpOf mask)
    (hb : b &&& regBits (reg8 mask) = regBits (reg8 w) &&& regBits (reg8 mask))
    (hc : c &&& off6Of mask = off6Of w &&& off6Of mask) : pack336 op a b c &&& mask = w &&& mask := by
  rw [pack336_and, ha, hb, hc, ← pack336_and, pack336_fields hop]

theorem pack48_congr {w mask : Word} {op a : BitVec 4} {c : BitVec 8} (hop : opcodeOf w = op)
    (ha : a &&& low4Of mask = low4Of w &&& low4Of mask) (hc : vect8Of w = c) :
    pack48 op a c &&& mask = w &&& mask := by
  rw [pack48_and, ha, ← hc, ← pack48_and, pack48_fields hop]

end Sys2Proof
end

section
/-! SUPPORT. Decoding an encoded instruction and encoding a decoded word (30_encoding.md R154, R157, R159, O2, O3, O5).
An instruction stands for a word if it is well formed and its own word agrees with that word on every bit its row
reads. The decoder gives an instruction that stands for the word (`decode_standsFor`), and no other one does, but for
the ignored bits that an error record shows (`decode_of_standsFor`). -/

namespace Sys2Proof

/-! ### Decoding an encoded instruction -/

/-- A well-formed `trap` has none of the vectors at which the decoder gives a service (R159). -/
theorem wellFormed_trap_iff {low4 : BitVec 4} {vect8 : BitVec 8} : (Instr.trap low4 vect8).wellFormed = true ↔
    vect8 ≠ Config.vectGetc ∧ vect8 ≠ Config.vectOut ∧ vect8 ≠ Config.vectPuts ∧ vect8 ≠ Config.vectIn
      ∧ vect8 ≠ Config.vectPutsp ∧ vect8 ≠ Config.vectHalt := by
  simp [Instr.wellFormed, serviceVectors]

/-- The decoder reads every well-formed instruction back from its word: the arm of its opcode, and there the mode bit,
the mask, the base register or the vector, select its constructor. -/
theorem decode_encode {i : Instr} (hwf : i.wellFormed = true) : decode (encode i) = i := by
  cases i with
  | addReg | addImm => simp [decode, encode, decodeAdd]
  | andReg | andImm => simp [decode, encode, decodeAnd]
  | br nzp off9 =>
    have hmask : nzp ≠ 0#3 := by simpa [Instr.wellFormed] using hwf
    simp [decode, encode, decodeBr, hmask]
  | nop => simp [decode, encode, decodeBr]
  | jmp base =>
    have hbase : base ≠ 7 := by simpa [Instr.wellFormed] using hwf
    simp [decode, encode, decodeJmp, hbase]
  | jsr | jsrr => simp [decode, encode, decodeJsr]
  | not | ld | ldi | ldr | lea | st | sti | str | res8 | res13 => simp [decode, encode]
  | trap low4 vect8 =>
    obtain ⟨hgetc, hout, hputs, hin, hputsp, hhalt⟩ := wellFormed_trap_iff.mp hwf
    simp [decode, encode, decodeTrap, hgetc, hout, hputs, hin, hputsp, hhalt]
  | ret | getc | out | puts | inChar | putsp | halt => decide

/-- Settles O2. -/
theorem decodeOfEncode : Obligations.DecodeOfEncode := fun _ => decode_encode

/-! ### Encoding a decoded word -/

/-- The instruction is well formed, and its word agrees with `w` on every bit its row reads. -/
def Instr.StandsFor (i : Instr) (w : Word) : Prop :=
  i.wellFormed = true ∧ encode i &&& i.row.reads = w &&& i.row.reads

theorem Instr.StandsFor.of_encode {i : Instr} {w : Word} (hwf : i.wellFormed = true) (h : encode i = w) :
    i.StandsFor w := ⟨hwf, by rw [h]⟩

/-- The register mode of ADD and AND drops the two ignored bits. -/
theorem pack336_lowReg_congr {op : BitVec 4} {w : Word} (hop : opcodeOf w = op) (hmode : modeImm w = false) :
    pack336 op (regBits (reg11 w)) (regBits (reg8 w)) (lowReg (reg2 w)) &&& 0xFFE7#16 = w &&& 0xFFE7#16 := by
  refine pack336_congr hop rfl rfl ?_
  rw [lowReg_reg2 hmode, BitVec.and_assoc]
  rfl

theorem pack336_lowImm {op : BitVec 4} {w : Word} (hop : opcodeOf w = op) (hmode : modeImm w = true) :
    pack336 op (regBits (reg11 w)) (regBits (reg8 w)) (lowImm (imm5Of w)) = w := by
  rw [lowImm_imm5Of hmode]
  exact pack336_fields hop

section
variable {w : Word}

theorem Instr.StandsFor.ite {c : Prop} [Decidable c] {i j : Instr} (hi : c → i.StandsFor w)
    (hj : ¬ c → j.StandsFor w) : (if c then i else j).StandsFor w := by
  split
  case isTrue h => exact hi h
  case isFalse h => exact hj h

theorem decodeBr_standsFor (hop : opcodeOf w = 0x0#4) : (decodeBr w).StandsFor w := by
  have hpack := pack39_fields hop
  refine .ite (fun hmask => .of_encode rfl ?_) (fun hmask => .of_encode (by simpa [Instr.wellFormed] using hmask) hpack)
  rwa [hmask] at hpack

theorem decodeAdd_standsFor (hop : opcodeOf w = 0x1#4) : (decodeAdd w).StandsFor w :=
  .ite (fun hmode => .of_encode rfl (pack336_lowImm hop hmode))
    (fun hmode => ⟨rfl, pack336_lowReg_congr hop (Bool.eq_false_of_not_eq_true hmode)⟩)

theorem decodeAnd_standsFor (hop : opcodeOf w = 0x5#4) : (decodeAnd w).StandsFor w :=
  .ite (fun hmode => .of_encode rfl (pack336_lowImm hop hmode))
    (fun hmode => ⟨rfl, pack336_lowReg_congr hop (Bool.eq_false_of_not_eq_true hmode)⟩)

/-- JSRR reads the mode bit of the field it does not use, and ignores the rest. -/
theorem decodeJsr_standsFor (hop : opcodeOf w = 0x4#4) : (decodeJsr w).StandsFor w := by
  refine .ite (fun hmode => .of_encode rfl (pack111_fields hop hmode)) (fun hmode => ?_)
  have hnzp := nzpOf_and_of_modeJsr (Bool.eq_false_of_not_eq_true hmode)
  exact ⟨rfl, pack336_congr (mask := 0xF9C0#16) hop hnzp.symm rfl (and_congr_of_zero rfl _ _)⟩

/-- JMP and RET ignore the fields beside BaseR. -/
theorem decodeJmp_standsFor (hop : opcodeOf w = 0xC#4) : (decodeJmp w).StandsFor w := by
  have hpack : pack336 0xC#4 0#3 (regBits (reg8 w)) 0#6 &&& 0xF1C0#16 = w &&& 0xF1C0#16 :=
    pack336_congr hop (and_congr_of_zero rfl _ _) rfl (and_congr_of_zero rfl _ _)
  refine .ite (fun hbase => ⟨rfl, ?_⟩) (fun hbase => ⟨by simpa [Instr.wellFormed] using hbase, hpack⟩)
  rwa [hbase] at hpack

/-- The services drop the ignored bits 11:8; the TRAP that faults keeps them. -/
theorem decodeTrap_standsFor (hop : opcodeOf w = 0xF#4) : (decodeTrap w).StandsFor w := by
  have hservice {v : Byte} (hv : vect8Of w = v) : pack48 0xF#4 0#4 v &&& 0xF0FF#16 = w &&& 0xF0FF#16 :=
    pack48_congr hop (and_congr_of_zero rfl _ _) hv
  unfold decodeTrap
  split_ifs with hgetc hout hputs hin hputsp hhalt
  · exact ⟨rfl, hservice hgetc⟩
  · exact ⟨rfl, hservice hout⟩
  · exact ⟨rfl, hservice hputs⟩
  · exact ⟨rfl, hservice hin⟩
  · exact ⟨rfl, hservice hputsp⟩
  · exact ⟨rfl, hservice hhalt⟩
  · exact .of_encode (wellFormed_trap_iff.mpr ⟨hgetc, hout, hputs, hin, hputsp, hhalt⟩) (pack48_fields hop)

end

/-- The decoder, arm by arm; the last arm of its match stands for opcode 15 alone. -/
theorem decode_standsFor (w : Word) : (decode w).StandsFor w := by
  have hlt : (opcodeOf w).toNat < 16 := (opcodeOf w).isLt
  have hop {n : Nat} (h : (opcodeOf w).toNat = n) : opcodeOf w = BitVec.ofNat 4 n := by
    rw [← h, BitVec.ofNat_toNat, BitVec.setWidth_eq]
  unfold decode
  split
  case h_1 h => exact decodeBr_standsFor (hop h)
  case h_2 h => exact decodeAdd_standsFor (hop h)
  case h_5 h => exact decodeJsr_standsFor (hop h)
  case h_6 h => exact decodeAnd_standsFor (hop h)
  case h_10 h => exact ⟨rfl, pack336_congr (mask := 0xFFC0#16) (hop h) rfl rfl (and_congr_of_zero rfl _ _)⟩
  case h_13 h => exact decodeJmp_standsFor (hop h)
  case h_7 h | h_8 h => exact .of_encode rfl (pack336_fields (hop h))
  case h_9 h | h_14 h => exact .of_encode rfl (pack12_fields (hop h))
  case h_3 h | h_4 h | h_11 h | h_12 h | h_15 h => exact .of_encode rfl (pack39_fields (hop h))
  case h_16 =>
    simp only [imp_false] at *
    exact decodeTrap_standsFor (hop (n := 15) (by omega))

/-- Settles O3. -/
theorem encodeOfDecodeKeepsEveryReadBit : Obligations.EncodeOfDecodeKeepsEveryReadBit := decode_standsFor

/-! ### No other instruction stands for a word -/

/-- A row that reads every bit stands for the one word of its instruction. -/
theorem Instr.StandsFor.encode_eq {i : Instr} {w : Word} (h : i.StandsFor w) (hreads : i.row.reads = 0xFFFF#16) :
    encode i = w := by
  obtain ⟨-, hbits⟩ := h
  rwa [hreads, show 0xFFFF#16 = BitVec.allOnes 16 from rfl, BitVec.and_allOnes, BitVec.and_allOnes] at hbits

theorem decodeTrap_congr {u w : Word} (h : vect8Of u = vect8Of w) :
    (decodeTrap u).withoutIgnored = (decodeTrap w).withoutIgnored := by
  unfold decodeTrap
  rw [h]
  split_ifs <;> rfl

/-- TRAPs that agree on the bits that the table's rows of TRAP read are the same, but for the ignored bits. -/
theorem decode_congr_of_trap {u w : Word} (hop : opcodeOf u = 0xF#4) (h : u &&& 0xF0FF#16 = w &&& 0xF0FF#16) :
    (decode w).withoutIgnored = (decode u).withoutIgnored := by
  have hop' : opcodeOf w = 0xF#4 := opcodeOf_congr h rfl ▸ hop
  rw [Machine.decode_of_trap hop, Machine.decode_of_trap hop', decodeTrap_congr (vect8Of_congr h rfl)]

theorem decode_of_standsFor {i : Instr} {w : Word} (h : i.StandsFor w) :
    (decode w).withoutIgnored = i.withoutIgnored := by
  have ⟨hwf, hbits⟩ := h
  have hback : decode (encode i) = i := decode_encode hwf
  cases i with
  | addImm | andImm | br | jsr | ld | st | ldr | str | ldi | sti | lea | nop => rw [← h.encode_eq rfl, hback]
  | addReg dr sr1 sr2 | andReg dr sr1 sr2 =>
    change _ &&& 0xFFE7#16 = w &&& 0xFFE7#16 at hbits
    simp [decode, decodeAdd, decodeAnd, ← opcodeOf_congr hbits rfl, ← modeImm_congr hbits rfl,
      ← reg11_congr hbits rfl, ← reg8_congr hbits rfl, ← reg2_congr hbits rfl, encode]
  | not dr sr =>
    change _ &&& 0xFFC0#16 = w &&& 0xFFC0#16 at hbits
    simp [decode, ← opcodeOf_congr hbits rfl, ← reg11_congr hbits rfl, ← reg8_congr hbits rfl, encode]
  | jmp | ret =>
    rw [← hback]
    change _ &&& 0xF1C0#16 = w &&& 0xF1C0#16 at hbits
    simp [decode, decodeJmp, ← opcodeOf_congr hbits rfl, ← reg8_congr hbits rfl, encode]
  | jsrr base =>
    change _ &&& 0xF9C0#16 = w &&& 0xF9C0#16 at hbits
    simp [decode, decodeJsr, ← opcodeOf_congr hbits rfl, ← modeJsr_congr hbits rfl, ← reg8_congr hbits rfl, encode]
  | res8 | res13 =>
    change _ &&& 0xF000#16 = w &&& 0xF000#16 at hbits
    simp [decode, ← opcodeOf_congr hbits rfl, encode, Instr.withoutIgnored]
  | trap | getc | out | puts | inChar | putsp | halt =>
    rw [decode_congr_of_trap (by simp [encode]) hbits, hback]

/-- Settles O5: both words have the instruction of the first standing for them. -/
theorem ignoredBitsDoNotChangeTheInstruction : Obligations.IgnoredBitsDoNotChangeTheInstruction := by
  refine ⟨fun w w' hagree => decode_of_standsFor ?_, by decide⟩
  obtain ⟨hwf, hbits⟩ := decode_standsFor w
  exact ⟨hwf, hbits.trans hagree⟩

end Sys2Proof
end

section
/-! SUPPORT. The opcode table (30_encoding.md R154, O4). Its rows that refine no other tell words apart by the opcode
and the two mode bits alone. A row that refines another and admits a word is the row of the word's instruction. -/

namespace Sys2Proof

/-! ### The rows that refine no other -/

/-- The word with this opcode and these mode bits, and all other bits 0. -/
def selectorWord (op : BitVec 4) (jsr imm : Bool) : Word :=
  place op 12 ||| place (BitVec.ofBool jsr) 11 ||| place (BitVec.ofBool imm) 5

theorem and_selectorMask (w : Word) : w &&& 0xF820#16 = selectorWord (opcodeOf w) (modeJsr w) (modeImm w) := by
  simp only [selectorWord, place, opcodeOf, modeJsr, modeImm]; ext i hi
  interval_cases i <;> simp

theorem admits_iff {r : Row} {w : Word} : r.admits w = true ↔ w &&& r.mask = r.pattern := beq_iff_eq

theorem admits_and_of_subset {r : Row} {mask : Word} (h : r.mask &&& mask = r.mask) (w : Word) :
    r.admits (w &&& mask) = r.admits w := by
  rw [Row.admits, Row.admits, BitVec.and_assoc, BitVec.and_comm mask, h]

theorem mask_subset_selectorMask : ∀ r ∈ opcodeTable, r.refines = false → r.mask &&& 0xF820#16 = r.mask := by decide

/-- The 64 selectors have one row each. -/
theorem one_row_admits_selectorWord : ∀ (op : BitVec 4) (jsr imm : Bool),
    (opcodeTable.filter fun r => !r.refines && r.admits (selectorWord op jsr imm)).length = 1 := by decide

theorem one_row_admits (w : Word) : (opcodeTable.filter fun r => !r.refines && r.admits w).length = 1 := by
  rw [← one_row_admits_selectorWord (opcodeOf w) (modeJsr w) (modeImm w), ← and_selectorMask]
  refine congrArg List.length (List.filter_congr fun r hr => ?_)
  cases href : r.refines with
  | true => rfl
  | false => rw [admits_and_of_subset (mask_subset_selectorMask r hr href)]

/-! ### The row of the decoded instruction -/

theorem row_mem_opcodeTable (i : Instr) : i.row ∈ opcodeTable := by
  cases i <;> simp [opcodeTable, Instr.row]

theorem row_withoutIgnored (i : Instr) : i.withoutIgnored.row = i.row := by cases i <;> rfl

/-- A row reads its fixed bits. -/
theorem mask_and_reads : ∀ r ∈ opcodeTable, r.mask &&& r.reads = r.mask := by decide

theorem row_admits_encode (i : Instr) : i.row.admits (encode i) = true := by
  cases i with
  | addReg dr sr1 sr2 => exact Laws.EncodesItsRow.addReg dr sr1 sr2
  | addImm dr sr1 imm5 => exact Laws.EncodesItsRow.addImm dr sr1 imm5
  | andReg dr sr1 sr2 => exact Laws.EncodesItsRow.andReg dr sr1 sr2
  | andImm dr sr1 imm5 => exact Laws.EncodesItsRow.andImm dr sr1 imm5
  | not dr sr => exact Laws.EncodesItsRow.not dr sr
  | br nzp off9 => exact Laws.EncodesItsRow.br nzp off9
  | jmp base => exact Laws.EncodesItsRow.jmp base
  | jsr off11 => exact Laws.EncodesItsRow.jsr off11
  | jsrr base => exact Laws.EncodesItsRow.jsrr base
  | ld dr off9 => exact Laws.EncodesItsRow.ld dr off9
  | st sr off9 => exact Laws.EncodesItsRow.st sr off9
  | ldr dr base off6 => exact Laws.EncodesItsRow.ldr dr base off6
  | str sr base off6 => exact Laws.EncodesItsRow.str sr base off6
  | res8 low12 => exact Laws.EncodesItsRow.res8 low12
  | ldi dr off9 => exact Laws.EncodesItsRow.ldi dr off9
  | sti sr off9 => exact Laws.EncodesItsRow.sti sr off9
  | res13 low12 => exact Laws.EncodesItsRow.res13 low12
  | lea dr off9 => exact Laws.EncodesItsRow.lea dr off9
  | trap low4 vect8 => exact Laws.EncodesItsRow.trap low4 vect8
  | nop off9 => exact Laws.EncodesItsRow.nop off9
  | ret => exact Laws.EncodesItsRow.ret
  | getc => exact Laws.EncodesItsRow.getc
  | out => exact Laws.EncodesItsRow.out
  | puts => exact Laws.EncodesItsRow.puts
  | inChar => exact Laws.EncodesItsRow.inChar
  | putsp => exact Laws.EncodesItsRow.putsp
  | halt => exact Laws.EncodesItsRow.halt

theorem Instr.StandsFor.admits {i : Instr} {w : Word} (h : i.StandsFor w) : i.row.admits w = true := by
  obtain ⟨-, hbits⟩ := h
  have hmask := and_congr_of_subset hbits (mask_and_reads i.row (row_mem_opcodeTable i))
  rw [admits_iff, ← hmask, admits_iff.mp (row_admits_encode i)]

theorem Instr.StandsFor.row_decode {i : Instr} {w : Word} (h : i.StandsFor w) : (decode w).row = i.row := by
  rw [← row_withoutIgnored, decode_of_standsFor h, row_withoutIgnored]

/-! ### The rows that refine another -/

/-- The instructions without an operand: their rows fix every bit they read. -/
def fixedInstrs : List Instr := [.ret, .getc, .out, .puts, .inChar, .putsp, .halt]

theorem fixedInstrs_spec : ∀ i ∈ fixedInstrs, i.wellFormed = true ∧ i.row.reads = i.row.mask := by decide

theorem refining_rows : ∀ r ∈ opcodeTable, r.refines = true →
    r = (Instr.nop 0).row ∨ ∃ i ∈ fixedInstrs, r = i.row := by decide

theorem standsFor_of_admits_fixed {i : Instr} (hi : i ∈ fixedInstrs) {w : Word} (h : i.row.admits w = true) :
    i.StandsFor w := by
  obtain ⟨hwf, hreads⟩ := fixedInstrs_spec i hi
  refine ⟨hwf, ?_⟩
  rw [hreads, admits_iff.mp h, admits_iff.mp (row_admits_encode i)]

/-- A word with the fixed bits of NOP has the opcode of BR and the mask 000 (R160). -/
theorem decode_of_admits_nop {w : Word} (h : (Instr.nop 0).row.admits w = true) : decode w = .nop (off9Of w) := by
  have hbits : 0x0000#16 &&& 0xFE00#16 = w &&& 0xFE00#16 := (admits_iff.mp h).symm
  have hop : opcodeOf w = 0x0#4 := (opcodeOf_congr hbits rfl).symm
  have hmask : nzpOf w = 0#3 := (extractLsb'_congr hbits 9 3 rfl).symm
  simp [decode, decodeBr, hop, hmask]

theorem row_decode_of_refines {r : Row} {w : Word} (hr : r ∈ opcodeTable) (href : r.refines = true)
    (h : r.admits w = true) : (decode w).row = r := by
  obtain rfl | ⟨i, hi, rfl⟩ := refining_rows r hr href
  · rw [decode_of_admits_nop h]
    rfl
  · exact (standsFor_of_admits_fixed hi h).row_decode

/-- A row that refines no other fixes no more than any row it shares a word with: on the bits both fix, the patterns
agree. -/
theorem mask_subset_of_compatible : ∀ r ∈ opcodeTable, ∀ p ∈ opcodeTable, r.refines = false →
    r.pattern &&& p.mask = p.pattern &&& r.mask → r.mask &&& p.mask = r.mask := by decide

theorem patterns_compatible {r p : Row} {w : Word} (hr : r.admits w = true) (hp : p.admits w = true) :
    r.pattern &&& p.mask = p.pattern &&& r.mask := by
  rw [← admits_iff.mp hr, ← admits_iff.mp hp, BitVec.and_assoc, BitVec.and_comm r.mask, BitVec.and_assoc]

/-- Settles O4. -/
theorem tablePartitionsTheWords : Obligations.TablePartitionsTheWords := by
  intro w
  have hadmits := (decode_standsFor w).admits
  have hmem := row_mem_opcodeTable (decode w)
  refine ⟨one_row_admits w, hmem, hadmits, fun r hr h => ?_⟩
  cases href : r.refines with
  | true => rw [row_decode_of_refines hr href h, BitVec.and_self]
  | false => exact mask_subset_of_compatible r hr _ hmem href (patterns_compatible h hadmits)

end Sys2Proof
end

section
/-! SUPPORT. The words that raise IllegalInstruction (30_encoding.md R158, O6), the twelve words of the spec's examples
(O1), the no-op (R160, O20), and the fetch of a step, from KBSR_ADDR too (R162, R163, O41, O42). -/

namespace Sys2Proof.Machine

/-! ### The reserved opcodes -/

/-- Every row reads the opcode. -/
theorem opcodeOf_reads : ∀ r ∈ opcodeTable, opcodeOf r.reads = 0xF#4 := by decide

theorem opcodeOf_encode_decode (w : Word) : opcodeOf (encode (decode w)) = opcodeOf w := by
  obtain ⟨-, hbits⟩ := decode_standsFor w
  exact opcodeOf_congr hbits (opcodeOf_reads _ (row_mem_opcodeTable _))

theorem decode_of_res8 {w : Word} (h : opcodeOf w = 0x8#4) : decode w = .res8 (low12Of w) := by simp [decode, h]
theorem decode_of_res13 {w : Word} (h : opcodeOf w = 0xD#4) : decode w = .res13 (low12Of w) := by simp [decode, h]

/-- TRAP stops the run at no vector with IllegalInstruction (R190). -/
theorem execTrap_ne_illegal (low4 : BitVec 4) (vect8 : BitVec 8) (s : State) (a ir : Word) (f : State) :
    execTrap low4 vect8 s ≠ .fault (.illegalInstruction a ir f) := by
  unfold execTrap
  split_ifs <;> nofun

/-- Only the two reserved opcodes raise IllegalInstruction. -/
theorem opcodeOf_of_exec_illegal {i : Instr} {s : State} {a ir : Word} {f : State}
    (h : exec i s = .fault (.illegalInstruction a ir f)) :
    opcodeOf (encode i) = 0x8#4 ∨ opcodeOf (encode i) = 0xD#4 := by
  cases i with
  | res8 low12 => exact .inl (opcodeOf_pack12 0x8#4 low12)
  | res13 low12 => exact .inr (opcodeOf_pack12 0xD#4 low12)
  | trap low4 vect8 => exact absurd h (execTrap_ne_illegal low4 vect8 s a ir f)
  | _ => cases h

/-- Settles O6: the instruction's own word has the opcode of the word it was decoded from. -/
theorem illegalExactlyTheReservedOpcodes : Obligations.IllegalExactlyTheReservedOpcodes := by
  intro w s
  constructor
  · rintro ⟨a, ir, f, h⟩
    rw [← opcodeOf_encode_decode w]
    exact opcodeOf_of_exec_illegal h
  · rintro (hop | hop)
    · rw [decode_of_res8 hop]
      exact ⟨_, _, _, rfl⟩
    · rw [decode_of_res13 hop]
      exact ⟨_, _, _, rfl⟩

/-! ### Single words -/

/-- Settles O1: the decoder run on the twelve words. -/
theorem specWordsDecode : Obligations.SpecWordsDecode := by
  unfold Obligations.SpecWordsDecode
  decide

theorem branchTaken_zero (c : Cond) : branchTaken 0b000#3 c = false := by cases c <;> rfl

/-- Settles O20: a mask without a bit takes no branch. -/
theorem nopDoesNothing : Obligations.NopDoesNothing := by
  refine ⟨fun off9 s => ⟨rfl, ?_⟩, by decide⟩
  simp [exec, execBr, branchTaken_zero]

theorem exec_word_0000 (s : State) : exec (decode 0x0000#16) s = .next s := rfl

/-! ### The fetch -/

theorem fetch_setStop (s : State) (v : Option StopRequest) :
    fetch (s.setStop v) = ((fetch s).1, (fetch s).2.setStop v) := by
  refine Prod.ext (fetch_fst_setStop s v) ?_
  rw [fetch_snd, fetch_snd, setStop_pc, memReadState_setStop]
  rfl

/-- A machine with no service in progress and a stop to come in a later step runs the decoded instruction in the state
after the fetch, the stop one step nearer (log 15). -/
theorem step_stop_later {s : State} (hr : s.run = .running) (hv : s.service = none) {k n : Nat}
    (hs : s.stop = some ⟨k + 1, n⟩) :
    step s = exec (decode (fetch s).1) ((fetch s).2.setStop (some ⟨k, n⟩)) := by
  simp only [step, hr, hs, advance, setStop_service, hv, fetch_setStop]

/-- Settles O41: `fetch` is the `MemRead` at pc and the advance of pc. -/
theorem stepRunsTheDecodedInstruction : Obligations.StepRunsTheDecodedInstruction := by
  intro s hr hv ir s1 hread
  have hfetch : fetch s = (ir, s1.setPc (s.pc + 1#16)) := by
    have hpc : s1.pc = s.pc := by rw [← memReadState_pc s s.pc, ← memRead_snd, hread]
    rw [fetch, hread, hpc]
  refine ⟨fun hs => ?_, fun k n hs => ?_⟩
  · rw [step_ready ⟨hr, hv, hs⟩, hfetch]
    rfl
  · rw [step_stop_later hr hv hs, hfetch]
    rfl

/-- A fetch from KBSR_ADDR reads the status word that its own poll leaves. -/
theorem fetch_kbsr {s : State} (hpc : s.pc = s.params.kbsrAddr) (hne : s.params.kbsrAddr ≠ s.params.kbdrAddr) :
    fetch s = (if pollAnswer s.console then 0x8000#16 else 0x0000#16, (kbsrPoll s).setPc (s.pc + 1#16)) := by
  rw [fetch, memRead_kbsr hpc, kbsrPoll_pc, hpc, rawRead_kbsrPoll_kbsr hne]

/-- The word 0x8000 run in the state after its fetch: the state shown has pc at the word again (R195). -/
theorem exec_word_8000 (u : State) :
    exec (decode 0x8000#16) (u.setPc (u.pc + 1#16)) = .fault (.illegalInstruction u.pc 0x8000#16 (restoreMode u)) := by
  have haddr : instrAddr (u.setPc (u.pc + 1#16)) = u.pc := by simp [instrAddr]
  change raiseIllegal _ 0x8000#16 = _
  rw [raiseIllegal, haddr]
  rfl

/-- Settles O42: the status word the poll leaves is one of a reserved opcode if it found a character, and NOP if not. -/
theorem fetchFromKbsrPolls : Obligations.FetchFromKbsrPolls := by
  intro s hready hpc hne
  rw [step_ready hready, fetch_kbsr hpc hne, ← hpc]
  refine ⟨fun hfound => ?_, fun hempty => ?_⟩
  · rw [if_pos hfound, ← kbsrPoll_pc s]
    exact exec_word_8000 (kbsrPoll s)
  · rw [if_neg (by simp [hempty])]
    exact exec_word_0000 _

end Sys2Proof.Machine
end

section
/-! SUPPORT. The operate instructions (40_operate.md R165 to R169, O14 to O18): the decoded form by the opcode and the
mode bit, and the result each form writes. -/

namespace Sys2Proof.Machine

/-! ### Their words -/

theorem decode_of_add {w : Word} (h : opcodeOf w = 0x1#4) : decode w = decodeAdd w := by simp [decode, h]
theorem decode_of_and {w : Word} (h : opcodeOf w = 0x5#4) : decode w = decodeAnd w := by simp [decode, h]
theorem decode_of_not {w : Word} (h : opcodeOf w = 0x9#4) : decode w = .not (reg11 w) (reg8 w) := by simp [decode, h]

theorem decode_of_addReg {w : Word} (hop : opcodeOf w = 0x1#4) (hmode : modeImm w = false) :
    decode w = .addReg (reg11 w) (reg8 w) (reg2 w) := by
  rw [decode_of_add hop, decodeAdd, if_neg (by simp [hmode])]

theorem decode_of_addImm {w : Word} (hop : opcodeOf w = 0x1#4) (hmode : modeImm w = true) :
    decode w = .addImm (reg11 w) (reg8 w) (imm5Of w) := by
  rw [decode_of_add hop, decodeAdd, if_pos hmode]

theorem decode_of_andReg {w : Word} (hop : opcodeOf w = 0x5#4) (hmode : modeImm w = false) :
    decode w = .andReg (reg11 w) (reg8 w) (reg2 w) := by
  rw [decode_of_and hop, decodeAnd, if_neg (by simp [hmode])]

theorem decode_of_andImm {w : Word} (hop : opcodeOf w = 0x5#4) (hmode : modeImm w = true) :
    decode w = .andImm (reg11 w) (reg8 w) (imm5Of w) := by
  rw [decode_of_and hop, decodeAnd, if_pos hmode]

/-! ### Their results -/

/-- An instruction whose whole effect is a result written to its destination. The value `v` is one of the state before,
so the destination may be a source (R165). -/
theorem exec_resultIn {i : Instr} {d : Reg} {v : Word} {s : State} (h : exec i s = .next (writeResult s d v)) :
    ∃ t, exec i s = .next t ∧ resultIn d v s t :=
  ⟨writeResult s d v, h, resultIn_writeResult s d v⟩

/-- Settles O14: the sum is written from the state before. -/
theorem addRegister : Obligations.AddRegister :=
  ⟨fun _ => decode_of_addReg, fun _ _ _ _ => exec_resultIn rfl⟩

/-- Settles O15: the immediate is the sign-extended field of the word. -/
theorem addImmediate : Obligations.AddImmediate :=
  ⟨fun _ => decode_of_addImm, fun _ _ _ _ => exec_resultIn rfl⟩

/-- Settles O16: the bitwise and is written from the state before. -/
theorem andRegister : Obligations.AndRegister :=
  ⟨fun _ => decode_of_andReg, fun _ _ _ _ => exec_resultIn rfl⟩

/-- Settles O17: the immediate is the sign-extended field of the word. -/
theorem andImmediate : Obligations.AndImmediate :=
  ⟨fun _ => decode_of_andImm, fun _ _ _ _ => exec_resultIn rfl⟩

/-- Settles O18: NOT has one form, its low six bits ignored. -/
theorem notComplements : Obligations.NotComplements :=
  ⟨fun _ => decode_of_not, fun _ _ _ => exec_resultIn rfl⟩

end Sys2Proof.Machine
end

section
/-! SUPPORT. Control transfer (41_control.md R171 to R174, O19, O21, O22, O23): the decoded form by the opcode and what
chooses within it, the test BR makes of the flag, and where each form leaves pc and R7. -/

namespace Sys2Proof.Machine

/-! ### Their words -/

theorem decode_eq_decodeBr {w : Word} (h : opcodeOf w = 0x0#4) : decode w = decodeBr w := by simp [decode, h]
theorem decode_eq_decodeJsr {w : Word} (h : opcodeOf w = 0x4#4) : decode w = decodeJsr w := by simp [decode, h]
theorem decode_eq_decodeJmp {w : Word} (h : opcodeOf w = 0xC#4) : decode w = decodeJmp w := by simp [decode, h]

theorem decode_of_br {w : Word} (hop : opcodeOf w = 0x0#4) (hmask : nzpOf w ≠ 0#3) :
    decode w = .br (nzpOf w) (off9Of w) := by
  rw [decode_eq_decodeBr hop, decodeBr, if_neg hmask]

theorem decode_of_nop {w : Word} (hop : opcodeOf w = 0x0#4) (hmask : nzpOf w = 0#3) : decode w = .nop (off9Of w) := by
  rw [decode_eq_decodeBr hop, decodeBr, if_pos hmask]

theorem decode_of_jmp {w : Word} (hop : opcodeOf w = 0xC#4) (hbase : reg8 w ≠ 7) : decode w = .jmp (reg8 w) := by
  rw [decode_eq_decodeJmp hop, decodeJmp, if_neg hbase]

theorem decode_of_ret {w : Word} (hop : opcodeOf w = 0xC#4) (hbase : reg8 w = 7) : decode w = .ret := by
  rw [decode_eq_decodeJmp hop, decodeJmp, if_pos hbase]

theorem decode_of_jsr {w : Word} (hop : opcodeOf w = 0x4#4) (hmode : modeJsr w = true) :
    decode w = .jsr (off11Of w) := by
  rw [decode_eq_decodeJsr hop, decodeJsr, if_pos hmode]

theorem decode_of_jsrr {w : Word} (hop : opcodeOf w = 0x4#4) (hmode : modeJsr w = false) :
    decode w = .jsrr (reg8 w) := by
  rw [decode_eq_decodeJsr hop, decodeJsr, if_neg (by simp [hmode])]

/-! ### The test of the flag (R121, R171) -/

/-- The flag is one-hot, so the mask meets it exactly in the mask's bit at the flag's place. -/
theorem branchTaken_of_condBits {c : Cond} {k : Nat} (hk : k < 3) (hc : condBits c = BitVec.twoPow 3 k)
    (nzp : BitVec 3) : branchTaken nzp c = nzp.getLsbD k := by
  have hne : BitVec.twoPow 3 k ≠ 0#3 := by interval_cases k <;> decide
  rw [branchTaken, hc, BitVec.and_twoPow]
  cases nzp.getLsbD k <;> simp [hne]

@[simp] theorem branchTaken_condNegative (nzp : BitVec 3) : branchTaken nzp .negative = nzp.getLsbD 2 :=
  branchTaken_of_condBits (by decide) rfl nzp
@[simp] theorem branchTaken_condZero (nzp : BitVec 3) : branchTaken nzp .zero = nzp.getLsbD 1 :=
  branchTaken_of_condBits (by decide) rfl nzp
@[simp] theorem branchTaken_condPositive (nzp : BitVec 3) : branchTaken nzp .positive = nzp.getLsbD 0 :=
  branchTaken_of_condBits (by decide) rfl nzp

/-- R171's `take`. -/
theorem branchTaken_iff (nzp : BitVec 3) (c : Cond) :
    branchTaken nzp c = true ↔ nzp.getLsbD 2 = true ∧ c = .negative ∨ nzp.getLsbD 1 = true ∧ c = .zero
      ∨ nzp.getLsbD 0 = true ∧ c = .positive := by
  cases c <;> simp

/-! ### Their transfers -/

theorem transferTo_refl (s : State) : transferTo s.pc none s s := transferTo_setPc s s.pc

theorem exec_br_taken {nzp : BitVec 3} {s : State} (h : branchTaken nzp s.cond = true) (off9 : BitVec 9) :
    exec (.br nzp off9) s = .next (s.setPc (s.pc + sext off9)) := by
  simp [exec, execBr, pcRel, h]

theorem exec_br_untaken {nzp : BitVec 3} {s : State} (h : ¬ branchTaken nzp s.cond = true) (off9 : BitVec 9) :
    exec (.br nzp off9) s = .next s := by
  simp [exec, execBr, h]

/-- The base of JSRR is read after the link is written (D12). -/
theorem exec_jsrr (base : Reg) (s : State) :
    exec (.jsrr base) s = .next ((linkR7 s).setPc (if base = 7 then s.pc else readReg s base)) := by
  rw [← readReg_linkR7]
  rfl

/-- An instruction whose whole effect is a jump without a link. -/
theorem exec_transferTo {i : Instr} {target : Word} {s : State} (h : exec i s = .next (s.setPc target)) :
    ∃ t, exec i s = .next t ∧ transferTo target none s t :=
  ⟨s.setPc target, h, transferTo_setPc s target⟩

/-- An instruction whose whole effect is a jump with the return address in R7. -/
theorem exec_transferTo_link {i : Instr} {target : Word} {s : State}
    (h : exec i s = .next ((linkR7 s).setPc target)) :
    ∃ t, exec i s = .next t ∧ transferTo target (some s.pc) s t :=
  ⟨(linkR7 s).setPc target, h, transferTo_link s target⟩

/-- Settles O19: by whether the mask meets the flag. -/
theorem branchRule : Obligations.BranchRule := by
  refine ⟨fun _ _ => rfl, fun _ => decode_of_br, fun _ => decode_of_nop, fun nzp off9 s => ?_⟩
  simp only [← branchTaken_iff]
  by_cases htake : branchTaken nzp s.cond = true
  · exact ⟨_, exec_br_taken htake off9, fun _ => transferTo_setPc s _, fun hnot => absurd htake hnot⟩
  · exact ⟨s, exec_br_untaken htake off9, fun h => absurd h htake, fun _ => transferTo_refl s⟩

/-- Settles O21: RET is the jump through R7. -/
theorem jumpAndReturn : Obligations.JumpAndReturn :=
  ⟨fun _ => decode_of_jmp, fun _ => decode_of_ret, fun _ => ⟨fun _ => exec_transferTo rfl, exec_transferTo rfl⟩⟩

/-- Settles O22: the target is relative to the same incremented pc that R7 keeps. -/
theorem jsrLinksAndJumps : Obligations.JsrLinksAndJumps :=
  ⟨fun _ => decode_of_jsr, fun _ _ => exec_transferTo_link rfl⟩

/-- Settles O23: through R7 the base read is the link just written. -/
theorem jsrrReadsAfterTheLink : Obligations.JsrrReadsAfterTheLink :=
  ⟨fun _ => decode_of_jsrr, fun base s => exec_transferTo_link (exec_jsrr base s)⟩

end Sys2Proof.Machine
end

section
/-! SUPPORT. Loads, LEA and stores (42_load_store.md R176 to R182, O24 to O29): the decoded form by the opcode, and what
each form leaves, told from the state that its reads left. -/

namespace Sys2Proof.Machine

/-! ### Their words -/

theorem decode_of_ld {w : Word} (h : opcodeOf w = 0x2#4) : decode w = .ld (reg11 w) (off9Of w) := by simp [decode, h]
theorem decode_of_st {w : Word} (h : opcodeOf w = 0x3#4) : decode w = .st (reg11 w) (off9Of w) := by simp [decode, h]
theorem decode_of_ldr {w : Word} (h : opcodeOf w = 0x6#4) : decode w = .ldr (reg11 w) (reg8 w) (off6Of w) := by
  simp [decode, h]
theorem decode_of_str {w : Word} (h : opcodeOf w = 0x7#4) : decode w = .str (reg11 w) (reg8 w) (off6Of w) := by
  simp [decode, h]
theorem decode_of_ldi {w : Word} (h : opcodeOf w = 0xA#4) : decode w = .ldi (reg11 w) (off9Of w) := by simp [decode, h]
theorem decode_of_sti {w : Word} (h : opcodeOf w = 0xB#4) : decode w = .sti (reg11 w) (off9Of w) := by simp [decode, h]
theorem decode_of_lea {w : Word} (h : opcodeOf w = 0xE#4) : decode w = .lea (reg11 w) (off9Of w) := by simp [decode, h]

/-! ### Loads and LEA -/

/-- A load is its `MemRead` and then a result, which changes nothing else of the state the read left. -/
theorem resultIn_loadInto {s u : State} {ea v : Word} (hread : memRead s ea = (v, u)) (dr : Reg) :
    resultIn dr v u (loadInto s dr ea) := by
  rw [loadInto, hread]
  exact resultIn_writeResult u dr v

/-- An instruction that is one load from `ea`, an address of the state before, by whether `ea` is KBSR_ADDR. -/
theorem exec_resultIn_loadInto {i : Instr} {dr : Reg} {ea : Word} {s : State}
    (h : exec i s = .next (loadInto s dr ea)) :
    ∃ t, exec i s = .next t
      ∧ (ea ≠ s.params.kbsrAddr → resultIn dr (rawRead s ea) s t)
      ∧ (ea = s.params.kbsrAddr → resultIn dr (rawRead (kbsrPoll s) s.params.kbsrAddr) (kbsrPoll s) t) := by
  refine ⟨loadInto s dr ea, h, fun hplain => resultIn_loadInto (memRead_plain hplain) dr, fun hkbsr => ?_⟩
  rw [← hkbsr]
  exact resultIn_loadInto (memRead_kbsr hkbsr) dr

/-- Settles O24: LD is one load. -/
theorem ldLoads : Obligations.LdLoads :=
  ⟨fun _ => decode_of_ld, fun _ _ _ => exec_resultIn_loadInto rfl⟩

/-- Settles O26: LDR is one load, its address taken before the destination is written. -/
theorem ldrLoads : Obligations.LdrLoads :=
  ⟨fun _ => decode_of_ldr, fun _ _ _ _ => exec_resultIn_loadInto rfl⟩

/-- Settles O25: after the pointer read LDI is a load from the pointer. -/
theorem ldiLoads : Obligations.LdiLoads := by
  refine ⟨fun _ => decode_of_ldi, fun dr off9 s => ⟨_, rfl, fun p v s1 s2 hpointer htarget => ?_⟩⟩
  rw [indirect, pcRel, hpointer]
  exact resultIn_loadInto htarget dr

/-- Settles O27: the address is written as a result, with no `MemRead`. -/
theorem leaGivesTheAddress : Obligations.LeaGivesTheAddress :=
  ⟨fun _ => decode_of_lea, fun _ _ _ => exec_resultIn rfl⟩

/-! ### Stores -/

/-- An instruction whose whole effect is one store. -/
theorem exec_storedAt {i : Instr} {ea v : Word} {s : State} (h : exec i s = .next (memWrite s ea v)) :
    ∃ t, exec i s = .next t ∧ storedAt ea v s t :=
  ⟨memWrite s ea v, h, storedAt_memWrite s ea v⟩

/-- The pointer read of STI may poll, but leaves the source register as it was. -/
theorem exec_sti (sr : Reg) (off9 : BitVec 9) (s : State) :
    exec (.sti sr off9) s = .next (memWrite (indirect s off9).2 (indirect s off9).1 (readReg s sr)) := by
  have hsr : readReg (indirect s off9).2 sr = readReg s sr := readReg_memReadState s _ sr
  rw [← hsr]
  rfl

/-- Settles O28: the pointer and the state the store is made in are those of the read. -/
theorem stiStores : Obligations.StiStores := by
  refine ⟨fun _ => decode_of_sti, fun sr off9 s => ⟨_, exec_sti sr off9 s, fun p s1 hpointer => ?_⟩⟩
  rw [indirect, pcRel, hpointer]
  exact storedAt_memWrite s1 p (readReg s sr)

/-- Settles O29: ST and STR are one store each. -/
theorem stAndStrStore : Obligations.StAndStrStore :=
  ⟨fun _ => decode_of_st, fun _ => decode_of_str,
    fun _ _ => ⟨fun _ => exec_storedAt rfl, fun _ _ => exec_storedAt rfl⟩⟩

end Sys2Proof.Machine
end

section
/-! SUPPORT. TRAP's words, vectors and entry (43_trap.md R183), the service OUT (R185, O33), and the services that read
a byte, GETC and IN (R184, R187, O32, O35), with their wait where none is left. -/

namespace Sys2Proof.Machine

/-! ### Their words and vectors -/

/-- The vector alone selects the service; the ignored bits 11:8 play no part (R159). -/
theorem decode_of_service {w : Word} {v : Byte} {i : Instr} (hv : v ∈ serviceVectors)
    (hi : decode (pack48 0xF#4 0#4 v) = i) (hop : opcodeOf w = 0xF#4) (hvect : vect8Of w = v) : decode w = i := by
  rw [← hi, decode_of_trap hop, decode_of_trap (opcodeOf_pack48 _ _ _)]
  unfold decodeTrap
  rw [hvect, vect8Of_pack48]
  split_ifs
  case neg => simp [serviceVectors, *] at hv
  all_goals rfl

theorem mem_serviceVectors_iff (v : Byte) : v ∈ serviceVectors ↔ 0x20#8 ≤ v ∧ v ≤ 0x25#8 := by
  simp only [serviceVectors, List.mem_cons, List.not_mem_nil, or_false, Config.vectGetc, Config.vectOut,
    Config.vectPuts, Config.vectIn, Config.vectPutsp, Config.vectHalt]
  bv_omega

/-! ### The entry of a TRAP (R183) -/

@[simp] theorem readReg_linkR7_same (s : State) : readReg (linkR7 s) 7 = s.pc := readReg_writeReg_same s 7 s.pc

theorem readReg_linkR7_zero (s : State) : readReg (linkR7 s) 0 = readReg s 0 :=
  readReg_writeReg_other s s.pc (by decide)

theorem sameRegsBut_linkR7 (s : State) : sameRegsBut [7] s (linkR7 s) :=
  fun _ h => readReg_writeReg_other s s.pc (by simpa using h)

/-! ### Output (R185) -/

@[simp] theorem writeChars_nil (s : State) : writeChars s [] = s := by simp [writeChars, State.setConsole]

@[simp] theorem writeChars_writeChars (s : State) (bs cs : List Byte) :
    writeChars (writeChars s bs) cs = writeChars s (bs ++ cs) := by
  simp [writeChars, State.setConsole]

theorem wroteOut_writeChars (s : State) (bs : List Byte) : wroteOut bs s (writeChars (linkR7 s) bs) :=
  ⟨readReg_linkR7_same s, sameRegsBut_linkR7 s, rfl, rfl, fun _ => rfl, rfl, rfl, rfl, rfl, rfl⟩

/-- A service whose whole effect is its output. -/
theorem exec_wroteOut {i : Instr} {bs : List Byte} {s : State}
    (h : exec i s = .next (writeChars (linkR7 s) bs)) : ∃ t, exec i s = .next t ∧ wroteOut bs s t :=
  ⟨_, h, wroteOut_writeChars s bs⟩

theorem exec_out (s : State) : exec .out s = .next (writeChars (linkR7 s) [lowByte (readReg s 0)]) := by
  rw [← readReg_linkR7_zero]
  rfl

/-- Settles O33: OUT is one byte of output. -/
theorem outWritesTheLowByte : Obligations.OutWritesTheLowByte :=
  ⟨fun _ => decode_of_service (by decide) (by decide), fun s => exec_wroteOut (exec_out s)⟩

/-! ### Input (R184, R187) -/

/-- A service that waits has done nothing but its entry and its output. -/
theorem inService_setService (s : State) (v : Service) (bs : List Byte) :
    inService v bs s ((writeChars (linkR7 s) bs).setService (some v)) :=
  ⟨readReg_linkR7_same s, sameRegsBut_linkR7 s, rfl, rfl, fun _ => rfl, rfl, rfl, rfl, rfl, rfl⟩

/-- The state after a service took the byte `c` from `In` and wrote `bs`. -/
def takenChar (c : Byte) (bs : List Byte) (s : State) : State :=
  writeResult (writeChars (s.setConsole (afterRead s.console)) bs) 0 (zext8 c)

theorem readReg_takenChar_other (c : Byte) (bs : List Byte) {r : Reg} (h : r ≠ 0) (s : State) :
    readReg (takenChar c bs s) r = readReg s r := readReg_writeReg_other _ (zext8 c) h

theorem tookChar_takenChar (s : State) (c : Byte) (bs : List Byte) : tookChar c bs s (takenChar c bs (linkR7 s)) := by
  refine ⟨?_, ?_, rfl, fun r h => ?_, rfl, fun _ => rfl, rfl, rfl, rfl, rfl, rfl⟩
  · exact (readReg_takenChar_other c bs (by decide) _).trans (readReg_linkR7_same s)
  · exact readReg_writeReg_same _ 0 (zext8 c)
  · obtain ⟨h0, h7⟩ : r ≠ 0 ∧ r ≠ 7 := by simpa using h
    rw [readReg_takenChar_other c bs h0, sameRegsBut_linkR7 s r (by simpa using h7)]

theorem serviceGetc_taken {s : State} {c : Byte} {rest : List Byte} (h : s.console.input = c :: rest) :
    serviceGetc s = takenChar c [] s := by simp [serviceGetc, takenChar, h]

theorem serviceGetc_wait {s : State} (h : s.console.input = []) : serviceGetc s = s.setService (some .getc) := by
  simp [serviceGetc, h]

theorem serviceInRead_taken {s : State} {c : Byte} {rest : List Byte} (h : s.console.input = c :: rest) :
    serviceInRead s = takenChar c [c] s := by simp [serviceInRead, takenChar, h]

theorem serviceInRead_wait {s : State} (h : s.console.input = []) :
    serviceInRead s = s.setService (some .inChar) := by
  simp [serviceInRead, h]

/-- What was written before the byte is taken stands before what is written with it. -/
theorem takenChar_writeChars (s : State) (c : Byte) (bs cs : List Byte) :
    takenChar c cs (writeChars s bs) = takenChar c (bs ++ cs) s := by
  rw [takenChar, takenChar, ← writeChars_writeChars]
  rfl

theorem run_of_step_self {s : State} (h : step s = .next s) (k : Nat) : core.run k s = .next s := by
  induction k with
  | zero => exact run_zero s
  | succ k ih => rw [run_succ_next k h, ih]

/-- A service that goes on to the same state is waited in for ever. -/
theorem run_of_resume_self {s : State} {v : Service} (hr : s.run = .running) (hs : s.stop = none)
    (hv : s.service = some v) (h : resume v s = s) (k : Nat) : core.run k s = .next s := by
  have hstep : step s = .next s := by rw [step_service hr hs hv, h]
  exact run_of_step_self hstep k

theorem condOf_zext8 {c : Byte} (h : c ≠ 0#8) : condOf (zext8 c) = .positive := by
  refine condOf_positive (fun h0 => h ?_) (by simp [zext8])
  rw [zext8] at h0
  bv_omega

/-- Settles O32: by whether `In` has a byte left. -/
theorem getcTakesAByteOrWaits : Obligations.GetcTakesAByteOrWaits := by
  refine ⟨fun _ => decode_of_service (by decide) (by decide), fun s => ⟨fun c rest hinput => ?_, fun hinput => ?_⟩⟩
  · have hexec : exec .getc s = .next (takenChar c [] (linkR7 s)) :=
      congrArg _ (serviceGetc_taken (s := linkR7 s) hinput)
    refine ⟨_, hexec, tookChar_takenChar s c [], ?_, condOf_zext8⟩
    rintro rfl
    rfl
  · have hexec : exec .getc s = .next ((linkR7 s).setService (some .getc)) :=
      congrArg _ (serviceGetc_wait (s := linkR7 s) hinput)
    have hstay : resume .getc ((linkR7 s).setService (some .getc)) = (linkR7 s).setService (some .getc) :=
      serviceGetc_wait (s := (linkR7 s).setService none) hinput
    refine ⟨_, hexec, ?_, fun hr hs => run_of_resume_self hr hs rfl hstay⟩
    rw [← writeChars_nil (linkR7 s)]
    exact inService_setService s .getc []

/-- Settles O35: the prompt is written before the read, which is that of GETC with an echo. -/
theorem inPromptsReadsAndEchoesOrWaits : Obligations.InPromptsReadsAndEchoesOrWaits := by
  refine ⟨fun _ => decode_of_service (by decide) (by decide), fun s => ⟨fun c rest hinput => ?_, fun hinput => ?_⟩⟩
  · have hexec : exec .inChar s = .next (takenChar c (s.params.inPrompt ++ [c]) (linkR7 s)) := by
      rw [← takenChar_writeChars]
      exact congrArg _ (serviceInRead_taken (s := writeChars (linkR7 s) s.params.inPrompt) hinput)
    exact ⟨_, hexec, tookChar_takenChar s c _⟩
  · have hexec : exec .inChar s
        = .next ((writeChars (linkR7 s) s.params.inPrompt).setService (some .inChar)) :=
      congrArg _ (serviceInRead_wait (s := writeChars (linkR7 s) s.params.inPrompt) hinput)
    refine ⟨_, hexec, inService_setService s .inChar _, fun hr hs => run_of_resume_self hr hs rfl ?_⟩
    exact serviceInRead_wait (s := (writeChars (linkR7 s) s.params.inPrompt).setService none) hinput

end Sys2Proof.Machine
end

section
/-! SUPPORT. The string services PUTS and PUTSP (43_trap.md R186, R188, O34, O36). Both read words from an address on;
they differ in the word that ends them and in the bytes a word gives. -/

namespace Sys2Proof.Machine

/-- The bytes that the `n` words from `a` on give, `bytes` being those of one word. -/
def bytesFrom (bytes : Word → List Byte) (m : Memory) (a : Word) (n : Nat) : List Byte :=
  (List.range n).flatMap fun k => bytes (m.read (a + BitVec.ofNat 16 k).toNat)

theorem bytesFrom_succ (bytes : Word → List Byte) (m : Memory) (a : Word) (n : Nat) :
    bytesFrom bytes m a (n + 1) = bytes (m.read a.toNat) ++ bytesFrom bytes m (a + 1#16) n := by
  simp [bytesFrom, List.range_succ_eq_map, List.flatMap_map, next_add_ofNat, Nat.mod_eq_of_lt a.isLt]

/-- After all of memory the words come again (log 12). -/
theorem bytesFrom_succ_mul_scanLimit (bytes : Word → List Byte) (m : Memory) (a : Word) (k : Nat) :
    bytesFrom bytes m a ((k + 1) * scanLimit)
      = bytesFrom bytes m a scanLimit ++ bytesFrom bytes m a (k * scanLimit) := by
  have hwrap (j : Nat) : BitVec.ofNat 16 (scanLimit + j) = BitVec.ofNat 16 j := by
    apply BitVec.eq_of_toNat_eq
    simp [scanLimit]
  rw [Nat.succ_mul, Nat.add_comm]
  simp only [bytesFrom, List.range_add, List.flatMap_append, List.flatMap_map, hwrap]

/-! ### The scan up to a terminator -/

/-- What the scans of PUTS and PUTSP have in common: a word that `ends` holds of ends the scan, every other word gives
its `bytes`. -/
structure ScansWords (scan : Nat → Word → List Byte × Bool) (m : Memory) (ends : Word → Prop)
    (bytes : Word → List Byte) : Prop where
  stop : ∀ {n : Nat} {a : Word}, ends (m.read a.toNat) → scan (n + 1) a = ([], true)
  more : ∀ {n : Nat} {a : Word}, ¬ ends (m.read a.toNat) →
    scan (n + 1) a = (bytes (m.read a.toNat) ++ (scan n (a + 1#16)).1, (scan n (a + 1#16)).2)

theorem putsScan_scansWords (m : Memory) : ScansWords (putsScan m) m (· = 0x0000#16) ([lowByte ·]) :=
  ⟨putsScan_end, putsScan_more⟩

theorem putspScan_scansWords (m : Memory) : ScansWords (putspScan m) m (lowByte · = 0x00#8) putspBytes :=
  ⟨putspScan_end, putspScan_more⟩

/-- A scan gives the bytes of the words before the first terminator within its limit, and finds the end. -/
theorem ScansWords.of_first_end {scan : Nat → Word → List Byte × Bool} {m : Memory} {ends : Word → Prop}
    {bytes : Word → List Byte} (h : ScansWords scan m ends bytes) {limit n : Nat} {a : Word} (hn : n < limit)
    (hbefore : ∀ k < n, ¬ ends (m.read (a + BitVec.ofNat 16 k).toNat))
    (hend : ends (m.read (a + BitVec.ofNat 16 n).toNat)) : scan limit a = (bytesFrom bytes m a n, true) := by
  induction n generalizing limit a with
  | zero =>
    obtain ⟨limit, rfl⟩ := Nat.exists_eq_add_one.mpr hn
    exact h.stop (by simpa [Nat.mod_eq_of_lt a.isLt] using hend)
  | succ n ih =>
    obtain ⟨limit, rfl⟩ := Nat.exists_eq_add_one.mpr (Nat.zero_lt_of_lt hn)
    have hfirst : ¬ ends (m.read a.toNat) := by
      simpa [Nat.mod_eq_of_lt a.isLt] using hbefore 0 (Nat.zero_lt_succ n)
    rw [← next_add_ofNat] at hend
    have hrest : scan limit (a + 1#16) = (bytesFrom bytes m (a + 1#16) n, true) := by
      refine ih (Nat.lt_of_succ_lt_succ hn) (fun k hk => ?_) hend
      rw [next_add_ofNat]
      exact hbefore (k + 1) (Nat.succ_lt_succ hk)
    rw [h.more hfirst, hrest, bytesFrom_succ]

/-! ### A string without a terminator -/

/-- A service that writes at each step the bytes of all of memory from `a` on, and stays in progress. -/
theorem run_of_resume_writes {bytes : Word → List Byte} {m : Memory} {a : Word} {v : Service}
    (hresume : ∀ u : State, u.mem = m →
      resume v u = (writeChars u (bytesFrom bytes m a scanLimit)).setService (some v))
    {t : State} (hr : t.run = .running) (hs : t.stop = none) (hv : t.service = some v) (hm : t.mem = m) (k : Nat) :
    core.run k t = .next (writeChars t (bytesFrom bytes m a (k * scanLimit))) := by
  induction k generalizing t with
  | zero => simp [run_zero, bytesFrom]
  | succ k ih =>
    have hstay : resume v t = writeChars t (bytesFrom bytes m a scanLimit) := by
      rw [hresume t hm, ← hv]
      rfl
    rw [run_succ_next k (step_service hr hs hv), hstay, ih (t := writeChars t _) hr hs hv hm,
      writeChars_writeChars, ← bytesFrom_succ_mul_scanLimit]

/-- A string service that finds no terminator in its first step finds none later. -/
theorem exec_never_ends {i : Instr} {bytes : Word → List Byte} {a : Word} {v : Service} {s : State}
    (hready : s.ready)
    (hexec : exec i s = .next ((writeChars (linkR7 s) (bytesFrom bytes s.mem a scanLimit)).setService (some v)))
    (hresume : ∀ u : State, u.mem = s.mem →
      resume v u = (writeChars u (bytesFrom bytes s.mem a scanLimit)).setService (some v)) :
    ∃ t, exec i s = .next t ∧ ∀ k, ∃ u, core.run k t = .next u ∧ u.service = some v ∧ u.pc = s.pc ∧ u.regs = t.regs
      ∧ u.mem = s.mem ∧ u.run = .running ∧ u.cond = s.cond
      ∧ u.console.out = s.console.out ++ bytesFrom bytes s.mem a ((k + 1) * scanLimit) := by
  obtain ⟨hr, -, hs⟩ := hready
  refine ⟨_, hexec, fun k => ⟨_, run_of_resume_writes hresume ?run ?stop ?service ?mem k,
    rfl, rfl, rfl, rfl, hr, rfl, ?out⟩⟩
  case out =>
    rw [bytesFrom_succ_mul_scanLimit, ← List.append_assoc]
    rfl
  case run => exact hr
  case stop => exact hs
  case service | mem => rfl

/-! ### PUTS (R186) -/

theorem exec_puts (s : State) : exec .puts s = .next (servicePuts (readReg s 0) (linkR7 s)) := by
  rw [← readReg_linkR7_zero]
  rfl

theorem servicePuts_of_end {s : State} {a : Word} {bs : List Byte} (h : putsScan s.mem scanLimit a = (bs, true)) :
    servicePuts a s = writeChars s bs := by
  rw [servicePuts, h]
  rfl

theorem servicePuts_of_no_end {s : State} {a : Word} {bs : List Byte} (h : putsScan s.mem scanLimit a = (bs, false)) :
    servicePuts a s = (writeChars s bs).setService (some (.puts a)) := by
  rw [servicePuts, h]
  rfl

theorem putsScan_eq_bytesFrom {m : Memory} (h : ∀ a : Word, m.read a.toNat ≠ 0x0000#16) (n : Nat) (a : Word) :
    putsScan m n a = (bytesFrom ([lowByte ·]) m a n, false) := by
  rw [putsScan_never h, bytesFrom, List.map_eq_flatMap]

/-- Settles O34: the scan up to the first zero word, and the repetition where there is none. -/
theorem putsWritesUpToTheZeroWordOrNeverEnds : Obligations.PutsWritesUpToTheZeroWordOrNeverEnds := by
  refine ⟨fun _ => decode_of_service (by decide) (by decide), fun s => ?_⟩
  simp only [List.map_eq_flatMap]
  refine ⟨fun n hn hbefore hzero => exec_wroteOut ?_, fun hready hnever => ?_⟩
  · have hscan := (putsScan_scansWords s.mem).of_first_end hn hbefore hzero
    rw [exec_puts, servicePuts_of_end (s := linkR7 s) hscan]
    rfl
  · have hscan := putsScan_eq_bytesFrom hnever scanLimit (readReg s 0)
    refine exec_never_ends (bytes := ([lowByte ·])) (a := readReg s 0) hready ?_ fun u hu => ?_
    · rw [exec_puts]
      exact congrArg _ (servicePuts_of_no_end (s := linkR7 s) hscan)
    · exact servicePuts_of_no_end (s := u.setService none) (hu ▸ hscan)

/-! ### PUTSP (R188) -/

theorem putspBytes_eq (w : Word) : putspBytes w
    = w.extractLsb' 0 8 :: (if w.extractLsb' 8 8 = 0x00#8 then [] else [w.extractLsb' 8 8]) := by
  unfold putspBytes
  rw [highByte, lowByte]
  split <;> rfl

theorem exec_putsp (s : State) : exec .putsp s = .next (servicePutsp (readReg s 0) (linkR7 s)) := by
  rw [← readReg_linkR7_zero]
  rfl

theorem servicePutsp_of_end {s : State} {a : Word} {bs : List Byte} (h : putspScan s.mem scanLimit a = (bs, true)) :
    servicePutsp a s = writeChars s bs := by
  rw [servicePutsp, h]
  rfl

theorem servicePutsp_of_no_end {s : State} {a : Word} {bs : List Byte} (h : putspScan s.mem scanLimit a = (bs, false)) :
    servicePutsp a s = (writeChars s bs).setService (some (.putsp a)) := by
  rw [servicePutsp, h]
  rfl

/-- Settles O36: the scan up to the first zero low byte, and the repetition where there is none. -/
theorem putspWritesUpToTheZeroLowByteOrNeverEnds : Obligations.PutspWritesUpToTheZeroLowByteOrNeverEnds := by
  refine ⟨fun _ => decode_of_service (by decide) (by decide), fun s => ?_⟩
  simp only [← putspBytes_eq]
  refine ⟨fun n hn hbefore hzero => exec_wroteOut ?_, fun hready hnever => ?_⟩
  · have hscan := (putspScan_scansWords s.mem).of_first_end hn hbefore hzero
    rw [exec_putsp, servicePutsp_of_end (s := linkR7 s) hscan]
    rfl
  · have hscan := putspScan_never hnever scanLimit (readReg s 0)
    refine exec_never_ends (bytes := putspBytes) (a := readReg s 0) hready ?_ fun u hu => ?_
    · rw [exec_putsp]
      exact congrArg _ (servicePutsp_of_no_end (s := linkR7 s) hscan)
    · exact servicePutsp_of_no_end (s := u.setService none) (hu ▸ hscan)

end Sys2Proof.Machine
end

section
/-! SUPPORT. HALT (43_trap.md R189, O37), the dispatch of TRAP (R183, O31) and the vectors that fault (R190, O38). -/

namespace Sys2Proof.Machine

/-- Settles O37: HALT's state is HALTED, where every run stays. -/
theorem haltEndsTheRun : Obligations.HaltEndsTheRun :=
  ⟨fun _ => decode_of_service (by decide) (by decide), fun s => ⟨serviceHalt (linkR7 s), rfl, rfl, readReg_linkR7_same s,
    rfl, rfl, sameRegsBut_linkR7 s, fun _ => rfl, rfl, rfl, rfl, rfl, run_halted rfl⟩⟩

/-! ### The dispatch -/

/-- The term `trap` with a recognised vector is the service (log 24). -/
theorem exec_trap_service (low4 : BitVec 4) (s : State) :
    exec (.trap low4 0x20#8) s = exec .getc s ∧ exec (.trap low4 0x21#8) s = exec .out s
      ∧ exec (.trap low4 0x22#8) s = exec .puts s ∧ exec (.trap low4 0x23#8) s = exec .inChar s
      ∧ exec (.trap low4 0x24#8) s = exec .putsp s ∧ exec (.trap low4 0x25#8) s = exec .halt s :=
  ⟨rfl, rfl, rfl, rfl, rfl, rfl⟩

theorem readReg_serviceGetc_r7 (s : State) : readReg (serviceGetc s) 7 = readReg s 7 := by
  obtain ⟨-, h⟩ | ⟨c, _, -, h⟩ := serviceGetc_cases s <;> rw [h]
  · rfl
  · exact readReg_writeReg_other _ _ (by decide)

theorem readReg_serviceInRead_r7 (s : State) : readReg (serviceInRead s) 7 = readReg s 7 := by
  obtain ⟨-, h⟩ | ⟨c, _, -, h⟩ := serviceInRead_cases s <;> rw [h]
  · rfl
  · exact readReg_writeReg_other _ _ (by decide)

/-- Every service answers a next state and keeps the return address that the entry left in R7. -/
theorem execTrap_returns {vect8 : BitVec 8} (hv : vect8 ∈ serviceVectors) (low4 : BitVec 4) (s : State) :
    ∃ t, execTrap low4 vect8 s = .next t ∧ readReg t 7 = s.pc := by
  unfold execTrap
  split_ifs with hgetc hout hputs hin hputsp hhalt
  · exact ⟨_, rfl, (readReg_serviceGetc_r7 _).trans (readReg_linkR7_same s)⟩
  · exact ⟨_, rfl, readReg_linkR7_same s⟩
  · exact ⟨_, rfl, readReg_linkR7_same s⟩
  · exact ⟨_, rfl, (readReg_serviceInRead_r7 _).trans (readReg_linkR7_same s)⟩
  · exact ⟨_, rfl, readReg_linkR7_same s⟩
  · exact ⟨_, rfl, readReg_linkR7_same s⟩
  · simp [serviceVectors, *] at hv

/-- Settles O31: by the vector; `trap` is no instruction that changes pc after the fetch. -/
theorem trapDispatch : Obligations.TrapDispatch := by
  refine ⟨exec_trap_service, fun low4 vect8 s hlo hhi => ?_⟩
  obtain ⟨t, hexec, hr7⟩ := execTrap_returns ((mem_serviceVectors_iff vect8).mpr ⟨hlo, hhi⟩) low4 s
  exact ⟨t, hexec, hr7, (exec_footprint (i := .trap low4 vect8) hexec).pc rfl⟩

/-! ### The fault (R190) -/

theorem wellFormed_trap_of_range {vect8 : BitVec 8} (h : vect8 < 0x20#8 ∨ 0x25#8 < vect8) (low4 : BitVec 4) :
    (Instr.trap low4 vect8).wellFormed = true := by
  have hmem : vect8 ∉ serviceVectors := by
    rw [mem_serviceVectors_iff]
    bv_omega
  simpa [Instr.wellFormed] using hmem

theorem encode_trap (low4 : BitVec 4) (vect8 : BitVec 8) :
    encode (.trap low4 vect8) = 0xF000#16 ||| low4.setWidth 16 <<< 8 ||| vect8.setWidth 16 := by
  rw [encode, pack48, place, place, place, BitVec.shiftLeft_zero]
  rfl

/-- A TRAP that the decoder keeps raises the fault; its entry moves neither pc nor the console. -/
theorem exec_trap_of_wellFormed {low4 : BitVec 4} {vect8 : BitVec 8} (h : (Instr.trap low4 vect8).wellFormed = true)
    (s : State) : exec (.trap low4 vect8) s
      = .fault (.unrecognizedTrap (s.pc - 1#16) (encode (.trap low4 vect8)) s.console.out .prior) := by
  obtain ⟨hgetc, hout, hputs, hin, hputsp, hhalt⟩ := wellFormed_trap_iff.mp h
  change execTrap low4 vect8 s = _
  rw [execTrap, if_neg hgetc, if_neg hout, if_neg hputs, if_neg hin, if_neg hputsp, if_neg hhalt]
  rfl

/-- Settles O38: a vector outside the range is that of a well-formed `trap`. -/
theorem unrecognizedTrapFaults : Obligations.UnrecognizedTrapFaults := by
  intro low4 vect8 s h
  rw [exec_trap_of_wellFormed (wellFormed_trap_of_range h low4), encode_trap]

end Sys2Proof.Machine
end

section
/-! SUPPORT. The reserved opcodes (44_reserved.md R192, R193, O39): the word each one shows, and the state of the fault
they raise (60_exceptions.md R195, 70_reset_and_hazards.md R213). -/

namespace Sys2Proof.Machine

theorem pack12_eq (op : BitVec 4) (c : BitVec 12) : pack12 op c = place op 12 ||| c.setWidth 16 := by
  rw [pack12, place, place, BitVec.shiftLeft_zero]

theorem encode_res8 (low12 : BitVec 12) : encode (.res8 low12) = 0x8000#16 ||| low12.setWidth 16 :=
  pack12_eq 0x8#4 low12

theorem encode_res13 (low12 : BitVec 12) : encode (.res13 low12) = 0xD000#16 ||| low12.setWidth 16 :=
  pack12_eq 0xD#4 low12

/-- The setters of `raiseIllegal` write pc and the console's mode, and leave the other fields of the state shown. -/
theorem raiseIllegal_eq (s : State) (ir : Word) :
    raiseIllegal s ir = .fault (.illegalInstruction (s.pc - 1#16) ir
      { s with pc := s.pc - 1#16, console := { s.console with mode := .prior } }) := rfl

theorem exec_res8 (low12 : BitVec 12) (s : State) :
    exec (.res8 low12) s = raiseIllegal s (0x8000#16 ||| low12.setWidth 16) :=
  congrArg (raiseIllegal s) (encode_res8 low12)

theorem exec_res13 (low12 : BitVec 12) (s : State) :
    exec (.res13 low12) s = raiseIllegal s (0xD000#16 ||| low12.setWidth 16) :=
  congrArg (raiseIllegal s) (encode_res13 low12)

/-- Settles O39: both opcodes raise `raiseIllegal` with their own word. -/
theorem reservedOpcodesFault : Obligations.ReservedOpcodesFault := by
  refine ⟨fun _ => decode_of_res8, fun _ => decode_of_res13, fun low12 s => ⟨?_, ?_⟩⟩
  · rw [exec_res8, raiseIllegal_eq]
  · rw [exec_res13, raiseIllegal_eq]

end Sys2Proof.Machine
end

section
/-! SUPPORT. What a run does to the console and the parameters (60_exceptions.md R205, 00_scope.md R110, O53), and what
stands in the output when a stop lands (60_exceptions.md R197, 90_conflicts.md C7, O45). Every operation of the core
keeps to a preorder on states: `Out` grows at its end, `In` is consumed from its front, the parameters stay. -/

namespace Sys2Proof.Machine

/-- From `s` to `t` bytes were added at the end of `Out` and taken from the front of `In`; the parameters stay. -/
structure State.ExtendsTo (s t : State) : Prop where
  out : s.console.out <+: t.console.out
  input : t.console.input <:+ s.console.input
  params : t.params = s.params

namespace State.ExtendsTo

theorem refl (s : State) : s.ExtendsTo s := ⟨List.prefix_rfl, List.suffix_rfl, rfl⟩

variable {s t : State} (h : s.ExtendsTo t)
include h

theorem trans {u : State} (h' : t.ExtendsTo u) : s.ExtendsTo u :=
  ⟨h.out.trans h'.out, h'.input.trans h.input, h'.params.trans h.params⟩

/-! ### Operations that leave the console and the parameters -/

theorem of_same {u : State} (hconsole : u.console = t.console) (hparams : u.params = t.params) : s.ExtendsTo u :=
  ⟨hconsole ▸ h.out, hconsole ▸ h.input, hparams.trans h.params⟩

theorem setPc (v : Word) : s.ExtendsTo (t.setPc v) := h.of_same rfl rfl
theorem setService (v : Option Service) : s.ExtendsTo (t.setService v) := h.of_same rfl rfl
theorem writeResult (r : Reg) (v : Word) : s.ExtendsTo (writeResult t r v) := h.of_same rfl rfl
theorem linkR7 : s.ExtendsTo (linkR7 t) := h.of_same rfl rfl
theorem memWrite (a v : Word) : s.ExtendsTo (memWrite t a v) := h.of_same rfl rfl

/-! ### Operations on the console (R205) -/

theorem writeChars (bs : List Byte) : s.ExtendsTo (writeChars t bs) :=
  ⟨h.out.trans (List.prefix_append _ bs), h.input, h.params⟩

theorem afterRead : s.ExtendsTo (t.setConsole (afterRead t.console)) :=
  ⟨h.out, (List.tail_suffix _).trans h.input, h.params⟩

/-- A poll consumes at most the next byte, and writes none (R135). -/
theorem kbsrPoll : s.ExtendsTo (kbsrPoll t) := by
  refine h.trans ⟨by rw [kbsrPoll_out], ?_, kbsrPoll_params t⟩
  simp only [kbsrPoll_console]
  split
  · exact List.tail_suffix _
  · exact List.suffix_rfl

theorem memReadState (a : Word) : s.ExtendsTo (memReadState t a) := by
  obtain ⟨-, e⟩ | ⟨-, e⟩ := memReadState_cases t a <;> rw [e]
  · exact h.kbsrPoll
  · exact h

theorem fetch : s.ExtendsTo (fetch t).2 := (h.memReadState t.pc).setPc _

theorem loadInto (dr : Reg) (ea : Word) : s.ExtendsTo (loadInto t dr ea) := (h.memReadState ea).writeResult dr _

/-! ### The trap services (43_trap.md) -/

theorem serviceGetc : s.ExtendsTo (serviceGetc t) := by
  obtain ⟨-, e⟩ | ⟨c, _, -, e⟩ := serviceGetc_cases t <;> rw [e]
  · exact h.setService _
  · exact h.afterRead.writeResult 0 _

theorem serviceInRead : s.ExtendsTo (serviceInRead t) := by
  obtain ⟨-, e⟩ | ⟨c, _, -, e⟩ := serviceInRead_cases t <;> rw [e]
  · exact h.setService _
  · exact (h.afterRead.writeChars [c]).writeResult 0 _

theorem serviceIn : s.ExtendsTo (serviceIn t) := (h.writeChars _).serviceInRead
theorem serviceOut : s.ExtendsTo (serviceOut t) := h.writeChars _
theorem servicePuts (a : Word) : s.ExtendsTo (servicePuts a t) := (h.writeChars _).setService _
theorem servicePutsp (a : Word) : s.ExtendsTo (servicePutsp a t) := (h.writeChars _).setService _

/-- HALT writes its message; the end of the run touches neither sequence (R189). -/
theorem serviceHalt : s.ExtendsTo (serviceHalt t) :=
  have hmessage := h.writeChars t.params.haltMessage
  ⟨hmessage.out, hmessage.input, hmessage.params⟩

theorem resume (v : Service) : s.ExtendsTo (resume v t) := by
  have h0 := h.setService none
  cases v with
  | getc => exact h0.serviceGetc
  | inChar => exact h0.serviceInRead
  | puts a => exact h0.servicePuts a
  | putsp a => exact h0.servicePutsp a

end State.ExtendsTo

/-! ### Every instruction, step and run -/

/-- TRAP with any vector; an instruction of its own for a service is the TRAP with its vector (log 24). -/
theorem execTrap_extendsTo {low4 : BitVec 4} {vect8 : BitVec 8} {s t : State}
    (h : execTrap low4 vect8 s = .next t) : s.ExtendsTo t := by
  have hlink := (State.ExtendsTo.refl s).linkR7
  unfold execTrap at h
  split_ifs at h with hgetc hout hputs hin hputsp hhalt <;> cases h
  · exact hlink.serviceGetc
  · exact hlink.serviceOut
  · exact hlink.servicePuts _
  · exact hlink.serviceIn
  · exact hlink.servicePutsp _
  · exact hlink.serviceHalt

theorem exec_extendsTo {i : Instr} {s t : State} (h : exec i s = .next t) : s.ExtendsTo t := by
  have hrefl := State.ExtendsTo.refl s
  cases i with
  | trap low4 vect8 => exact execTrap_extendsTo h
  | res8 _ | res13 _ => cases h
  | addReg | addImm | andReg | andImm | not | lea | nop | jmp | ret | jsr | jsrr | st | str =>
    cases h
    exact hrefl.of_same rfl rfl
  | br nzp off9 =>
    cases h
    split <;> exact hrefl.of_same rfl rfl
  | ld dr _ | ldr dr _ _ =>
    cases h
    exact hrefl.loadInto dr _
  | ldi dr _ =>
    cases h
    exact (hrefl.memReadState _).loadInto dr _
  | sti _ _ =>
    cases h
    exact (hrefl.memReadState _).memWrite _ _
  | getc => exact execTrap_extendsTo (low4 := 0) (vect8 := Config.vectGetc) h
  | out => exact execTrap_extendsTo (low4 := 0) (vect8 := Config.vectOut) h
  | puts => exact execTrap_extendsTo (low4 := 0) (vect8 := Config.vectPuts) h
  | inChar => exact execTrap_extendsTo (low4 := 0) (vect8 := Config.vectIn) h
  | putsp => exact execTrap_extendsTo (low4 := 0) (vect8 := Config.vectPutsp) h
  | halt => exact execTrap_extendsTo (low4 := 0) (vect8 := Config.vectHalt) h

theorem advance_extendsTo {s t : State} (h : advance s = .next t) : s.ExtendsTo t := by
  have hrefl := State.ExtendsTo.refl s
  obtain ⟨v, -, rfl⟩ | ⟨-, hexec⟩ := advance_cases h
  · exact hrefl.resume v
  · exact hrefl.fetch.trans (exec_extendsTo hexec)

theorem step_extendsTo {s t : State} (h : step s = .next t) : s.ExtendsTo t := by
  obtain ⟨-, rfl⟩ | ⟨-, stop', -, hadv⟩ := step_cases h
  · exact .refl _
  · obtain ⟨hout, hinput, hparams⟩ := advance_extendsTo hadv
    exact ⟨hout, hinput, hparams⟩

theorem run_extendsTo {k : Nat} {s t : State} (h : core.run k s = .next t) : s.ExtendsTo t := by
  induction k generalizing s with
  | zero =>
    cases h
    exact .refl _
  | succ k ih =>
    obtain ⟨u, hstep, hrun⟩ := run_succ_cases h
    exact (step_extendsTo hstep).trans (ih hrun)

/-- Settles O53, by induction on the steps: every operation of a step keeps to `State.ExtendsTo`. -/
theorem runsOnlyExtendOutputAndConsumeInput : Obligations.RunsOnlyExtendOutputAndConsumeInput := by
  intro k s t h
  obtain ⟨hout, hinput, hparams⟩ := run_extendsTo h
  exact ⟨hout, hinput, hparams⟩

/-! ### The host's stop (R197) -/

theorem step_hostStop_zero {s : State} (hr : s.run = .running) (n : Nat) :
    step (hostStop 0 n s) = stopRun n (hostStop 0 n s) (advance (hostStop 0 n s)) := by
  have hr' : (hostStop 0 n s).run = .running := hr
  simp only [step, hr', hostStop_stop]

/-- At a stop the output is what was written before the step and at most `n` bytes of what the step adds to it (C7). -/
theorem outAtStop_eq_append {s : State} {r : Result} (hgrows : ∀ t, r = .next t → s.console.out <+: t.console.out)
    (n : Nat) : ∃ more, more.length ≤ n ∧ outAtStop n s r = s.console.out ++ more
      ∧ ∀ t, r = .next t → s.console.out ++ more <+: t.console.out := by
  cases r with
  | next t =>
    obtain ⟨bs, hbs⟩ := hgrows t rfl
    refine ⟨bs.take n, List.length_take_le n bs, ?_, ?_⟩
    · rw [outAtStop, ← hbs, List.take_length_add_append]
    · rintro _ ⟨⟩
      rw [← hbs]
      exact (List.prefix_append_right_inj _).mpr (List.take_prefix n bs)
  | fault _ | refused _ => exact ⟨[], Nat.zero_le n, (List.append_nil _).symm, nofun⟩

/-- Settles O45: the step that the stop lands in only extends the output, whatever it was to do. -/
theorem hostStopEndsTheRun : Obligations.HostStopEndsTheRun := by
  refine fun s n => ⟨fun hr => ?_, fun hh k => step_halted (s := hostStop k n s) hh⟩
  obtain ⟨more, hlen, hout, hbegins⟩ := outAtStop_eq_append (s := hostStop 0 n s)
    (fun _ h => (advance_extendsTo h).out) n
  refine ⟨more, hlen, ?_, hbegins⟩
  rw [step_hostStop_zero hr, stopRun, hout]
  rfl

end Sys2Proof.Machine
end

section
/-! SUPPORT. The state that IllegalInstruction shows (60_exceptions.md R195, 30_encoding.md R163, O43): the fault is
raised in the state after the fetch, with pc set back to the word fetched. -/

namespace Sys2Proof.Machine

/-- A step that answers a fault other than that of a stop has advanced into it, the stop request, if any, one step
nearer. -/
theorem step_fault_cases {s : State} {r : Fault} (h : step s = .fault r) :
    (∃ out mode, r = .interrupt out mode) ∨ ∃ stop', advance (s.setStop stop') = .fault r := by
  cases hr : s.run with
  | halted => simp [step, hr] at h
  | running =>
    match hs : s.stop with
    | none =>
      have hself : s.setStop none = s := by rw [← hs]; rfl
      simp only [step, hr, hs] at h
      exact .inr ⟨none, by rw [hself, h]⟩
    | some ⟨0, n⟩ =>
      simp only [step, hr, hs, stopRun, Host.Outcome.fault.injEq] at h
      exact .inl ⟨_, _, h.symm⟩
    | some ⟨k + 1, n⟩ =>
      simp only [step, hr, hs] at h
      exact .inr ⟨_, h⟩

/-- A service in progress raises no fault; a fault is that of the instruction fetched. -/
theorem exec_of_advance_fault {s : State} {r : Fault} (h : advance s = .fault r) :
    exec (decode (fetch s).1) (fetch s).2 = .fault r := by
  cases hv : s.service with
  | some v => simp [advance, hv] at h
  | none => simpa only [advance, hv] using h

/-- IllegalInstruction is raised with the word decoded, which a reserved opcode keeps whole (R195). -/
theorem exec_decode_illegal {w a ir : Word} {s f : State}
    (h : exec (decode w) s = .fault (.illegalInstruction a ir f)) :
    a = instrAddr s ∧ ir = w ∧ f = restoreMode (s.setPc (instrAddr s)) := by
  have hraise : exec (decode w) s = raiseIllegal s w := by
    obtain hop | hop := (illegalExactlyTheReservedOpcodes w s).mp ⟨a, ir, f, h⟩
    · rw [decode_of_res8 hop]
      exact congrArg (raiseIllegal s) (pack12_fields hop)
    · rw [decode_of_res13 hop]
      exact congrArg (raiseIllegal s) (pack12_fields hop)
  rw [hraise] at h
  cases h
  exact ⟨rfl, rfl, rfl⟩

/-- Taking pc back undoes the fetch but for the poll of its `MemRead`. -/
theorem setPc_fetch (s : State) : (fetch s).2.setPc s.pc = memReadState s s.pc := by
  have hself : ((memReadState s s.pc).setPc (s.pc + 1#16)).setPc (memReadState s s.pc).pc = memReadState s s.pc := rfl
  rwa [memReadState_pc, ← fetch_snd] at hself

/-- What a step that raises IllegalInstruction shows, in terms of the `MemRead` of its fetch. -/
theorem step_illegal {s : State} {a ir : Word} {f : State} (h : step s = .fault (.illegalInstruction a ir f)) :
    a = s.pc ∧ ir = rawRead (memReadState s s.pc) s.pc
      ∧ f = restoreMode ((memReadState s s.pc).setStop f.stop) := by
  obtain ⟨_, _, hstop⟩ | ⟨stop', hadv⟩ := step_fault_cases h
  · cases hstop
  · have hexec := exec_of_advance_fault hadv
    rw [fetch_setStop] at hexec
    obtain ⟨ha, hir, hf⟩ := exec_decode_illegal hexec
    have haddr : instrAddr ((fetch s).2.setStop stop') = s.pc := instrAddr_fetch s
    refine ⟨ha.trans haddr, hir, ?_⟩
    rw [hf, haddr, ← setPc_fetch]
    rfl

/-- Settles O43: the `MemRead` of the fetch polls at KBSR_ADDR and changes nothing elsewhere. -/
theorem illegalInstructionIsPrecise : Obligations.IllegalInstructionIsPrecise := by
  intro s a ir f h
  obtain ⟨ha, hir, hf⟩ := step_illegal h
  refine ⟨ha, fun hplain => ?_, fun hkbsr => ?_⟩
  · rw [memReadState_plain hplain] at hir hf
    exact ⟨hir, hf⟩
  · rw [memReadState_kbsr hkbsr] at hir hf
    exact ⟨hir, hf⟩

end Sys2Proof.Machine
end

section
/-! SUPPORT. The end of a wait (60_exceptions.md R205, R209, O40): delivered input reaches a waiting GETC or IN as input
that was there from the start reaches one that begins. -/

namespace Sys2Proof.Machine

/-- A service goes on in the same way whatever service the state names. -/
theorem resume_setService (v : Service) (s : State) (w : Option Service) :
    resume v (s.setService w) = resume v s := by
  cases v <;> rfl

/-- The step after a delivery goes on with the service from the state it waited in, with the input there. -/
theorem step_hostDeliver_waiting {s : State} (hr : s.run = .running) (hs : s.stop = none) (v : Service)
    (bs : List Byte) : step (hostDeliver bs (s.setService (some v))) = .next (resume v (hostDeliver bs s)) := by
  have hstep := step_service (s := hostDeliver bs (s.setService (some v))) hr hs rfl
  rw [hstep, ← resume_setService v (hostDeliver bs s) (some v)]
  rfl

theorem resume_getc {s : State} (hv : s.service = none) : resume .getc s = serviceGetc s := by
  rw [resume, ← hv]
  rfl

theorem resume_inChar {s : State} (hv : s.service = none) : resume .inChar s = serviceInRead s := by
  rw [resume, ← hv]
  rfl

/-- Settles O40: the entry, and the prompt of IN, commute with the delivery. -/
theorem deliveryEndsTheWait : Obligations.DeliveryEndsTheWait := by
  rintro s w c rest ⟨hr, hv, hs⟩ hinput
  refine ⟨fun hexec => ?_, fun hexec => ?_⟩
  · have hw : w = (linkR7 s).setService (some .getc) := by
      cases hexec
      exact serviceGetc_wait (s := linkR7 s) hinput
    rw [hw, step_hostDeliver_waiting (s := linkR7 s) hr hs]
    exact congrArg _ (resume_getc (s := hostDeliver (c :: rest) (linkR7 s)) hv)
  · have hw : w = (writeChars (linkR7 s) s.params.inPrompt).setService (some .inChar) := by
      cases hexec
      exact serviceInRead_wait (s := writeChars (linkR7 s) s.params.inPrompt) hinput
    rw [hw, step_hostDeliver_waiting (s := writeChars (linkR7 s) _) hr hs]
    exact congrArg _ (resume_inChar (s := hostDeliver (c :: rest) (writeChars (linkR7 s) _)) hv)

end Sys2Proof.Machine
end

section
/-! SUPPORT. Boot and the invariant (70_reset_and_hazards.md R210, 00_scope.md R110, O51). A boot changes the reset
state in its memory and its console alone, and leaves the console in the run's mode. -/

namespace Sys2Proof.Machine

/-- A boot that succeeds comes up in the reset state with an image loaded and the run's input and draws (R210). -/
theorem boot_next {p : Params} {input : List Byte} {draws : List Bool} {image : Option (List Byte)} {s : State}
    (h : boot p input draws image = .next s) :
    ∃ origin words, s = ((State.start p).setConsole ⟨input, draws, 0, [], .raw⟩).setMem
      (loadImage [] origin words) := by
  match image with
  | none | some [] | some [_] => cases h
  | some (b0 :: b1 :: bytes) =>
    rw [boot_of_origin] at h
    cases h
    exact ⟨_, _, rfl⟩

/-- A boot that succeeds leaves a RUNNING machine that meets the invariant: the image load keeps zeroed memory
canonical. -/
theorem boot_live {p : Params} {input : List Byte} {draws : List Bool} {image : Option (List Byte)} {s : State}
    (hp : p.wf = true) (h : boot p input draws image = .next s) : s.Live := by
  obtain ⟨origin, words, rfl⟩ := boot_next h
  exact (start_live hp).of_same (loadImage_wf Memory.wf_nil origin words) rfl rfl rfl

/-- Settles O51: differing device addresses are the parameters' well-formedness. -/
theorem bootMeetsTheInvariant : Obligations.BootMeetsTheInvariant := by
  intro p input draws image s hne hboot
  have hp : p.wf = true := by simpa [Params.wf] using hne
  exact (boot_live hp hboot).inv

end Sys2Proof.Machine
end
